-- ==== Sys2Proof/Word.lean ====
section
/-! DEFINITION. The widths of the machine's values (spec/00_scope.md rules R5, R7, R8). -/

namespace Sys2Proof

/-- A value of 8 bits: a general register, a memory cell, a timer, the immediate `kk` (R5). -/
abbrev Byte := BitVec 8

/-- A value of 16 bits: `pc`, `I`, a stack slot, an instruction word (R5, R90). -/
abbrev Word := BitVec 16

/-- The 12-bit immediate address `nnn` (R91). -/
abbrev Addr12 := BitVec 12

/-- The index of one of the 16 general registers (R20). -/
abbrev Reg := Fin 16

end Sys2Proof
end

