-- ==== Sys2Proof/Machine/Flags.lean ====
section
/-! DEFINITION. What the flag-writing instructions put in `VF` (spec/10_state.md rule R25). -/

namespace Sys2Proof.Machine

/-- A flag as a byte: 1 or 0. -/
def flagByte (b : Bool) : Byte := if b then 1#8 else 0#8

/-- `ADD Vx, Vy`: 1 if the unwrapped sum exceeds 255 (R166). -/
def carryFlag (a b : Byte) : Byte := flagByte (decide (a.toNat + b.toNat > 255))

/-- `SUB`, `SUBN`: 1 if there is no borrow in `a - b` (R167, R169). -/
def noBorrowFlag (a b : Byte) : Byte := flagByte (decide (a.toNat ≥ b.toNat))

/-- `SHR Vx`: the low bit of the value before the shift (R168). -/
def lowBitFlag (a : Byte) : Byte := a &&& 1#8

/-- `SHL Vx`: the high bit of the value before the shift (R170). -/
def highBitFlag (a : Byte) : Byte := (a >>> 7) &&& 1#8

end Sys2Proof.Machine
end

