-- ==== Sys2Proof/Syntax.lean ====
section
/-! DEFINITION. The 34 instruction variants of spec/30_encoding.md rule R95, each carrying exactly the
fields rule R96 gives it. -/

namespace Sys2Proof

/-- One constructor per row of spec/opcode_table.json, in the table's order. -/
inductive Instr where
  /-- `CLS`, 00E0 (R190). -/
  | cls
  /-- `RET`, 00EE (R140). -/
  | ret
  /-- `JP nnn`, 1nnn (R141). -/
  | jp (nnn : Addr12)
  /-- `CALL nnn`, 2nnn (R142). -/
  | call (nnn : Addr12)
  /-- `SE Vx, kk`, 3xkk (R143). -/
  | seImm (x : Reg) (kk : Byte)
  /-- `SNE Vx, kk`, 4xkk (R144). -/
  | sneImm (x : Reg) (kk : Byte)
  /-- `SE Vx, Vy`, 5xy0 (R145). -/
  | seReg (x y : Reg)
  /-- `LD Vx, kk`, 6xkk (R160). -/
  | ldImm (x : Reg) (kk : Byte)
  /-- `ADD Vx, kk`, 7xkk (R161). -/
  | addImm (x : Reg) (kk : Byte)
  /-- `LD Vx, Vy`, 8xy0 (R162). -/
  | ldReg (x y : Reg)
  /-- `OR Vx, Vy`, 8xy1 (R163). -/
  | orReg (x y : Reg)
  /-- `AND Vx, Vy`, 8xy2 (R164). -/
  | andReg (x y : Reg)
  /-- `XOR Vx, Vy`, 8xy3 (R165). -/
  | xorReg (x y : Reg)
  /-- `ADD Vx, Vy`, 8xy4 (R166). -/
  | addReg (x y : Reg)
  /-- `SUB Vx, Vy`, 8xy5 (R167). -/
  | subReg (x y : Reg)
  /-- `SHR Vx`, 8xy6; `y` is carried and ignored (R96, R100, R168). -/
  | shr (x y : Reg)
  /-- `SUBN Vx, Vy`, 8xy7 (R169). -/
  | subnReg (x y : Reg)
  /-- `SHL Vx`, 8xyE; `y` is carried and ignored (R96, R100, R170). -/
  | shl (x y : Reg)
  /-- `SNE Vx, Vy`, 9xy0 (R146). -/
  | sneReg (x y : Reg)
  /-- `LD I, nnn`, Annn (R180). -/
  | ldI (nnn : Addr12)
  /-- `JP V0, nnn`, Bnnn (R147). -/
  | jpV0 (nnn : Addr12)
  /-- `RND Vx, kk`, Cxkk (R171). -/
  | rnd (x : Reg) (kk : Byte)
  /-- `DRW Vx, Vy, n`, Dxyn; `n` is a count of rows (R191). -/
  | drw (x y : Reg) (n : Fin 16)
  /-- `SKP Vx`, Ex9E (R200). -/
  | skp (x : Reg)
  /-- `SKNP Vx`, ExA1 (R201). -/
  | sknp (x : Reg)
  /-- `LD Vx, DT`, Fx07 (R202). -/
  | ldVxDT (x : Reg)
  /-- `LD Vx, K`, Fx0A (R203). -/
  | ldVxK (x : Reg)
  /-- `LD DT, Vx`, Fx15 (R204). -/
  | ldDTVx (x : Reg)
  /-- `LD ST, Vx`, Fx18 (R205). -/
  | ldSTVx (x : Reg)
  /-- `ADD I, Vx`, Fx1E (R181). -/
  | addIVx (x : Reg)
  /-- `LD F, Vx`, Fx29 (R182). -/
  | ldFVx (x : Reg)
  /-- `LD B, Vx`, Fx33 (R183). -/
  | ldBVx (x : Reg)
  /-- `LD [I], Vx`, Fx55 (R184). -/
  | ldMemVx (x : Reg)
  /-- `LD Vx, [I]`, Fx65 (R185). -/
  | ldVxMem (x : Reg)
  deriving DecidableEq, Repr

end Sys2Proof
end

