-- ==== Sys2Proof/WellFormed.lean ====
section
/-! DEFINITION. The ranges of the operand fields (spec/30_encoding.md rules R91, R93, R102 "fields in
range"). Each field of `Instr` has the type of exactly its width, so that an out-of-range operand cannot
be built; the range checks themselves are stated on natural numbers, where they can be seen to refuse. -/

namespace Sys2Proof

/-- `x`, `y`: a register index 0 to 15 (R91). -/
abbrev regInRange (k : Nat) : Prop := k < 16

/-- `n`: a count 0 to 15 (R93). -/
abbrev nibbleInRange (k : Nat) : Prop := k < 16

/-- `kk`: a byte 0 to 255 (R93). -/
abbrev byteInRange (k : Nat) : Prop := k < 256

/-- `nnn`: an address 0 to 4095 (R93). -/
abbrev addrInRange (k : Nat) : Prop := k < 4096

/-- Every field the instruction carries is in the range its width gives it. -/
def Instr.WellFormed : Instr → Prop
  | .cls | .ret => True
  | .jp nnn | .call nnn | .ldI nnn | .jpV0 nnn => addrInRange nnn.toNat
  | .seImm x kk | .sneImm x kk | .ldImm x kk | .addImm x kk | .rnd x kk =>
      regInRange x.val ∧ byteInRange kk.toNat
  | .seReg x y | .sneReg x y | .ldReg x y | .orReg x y | .andReg x y | .xorReg x y
  | .addReg x y | .subReg x y | .shr x y | .subnReg x y | .shl x y =>
      regInRange x.val ∧ regInRange y.val
  | .drw x y n => regInRange x.val ∧ regInRange y.val ∧ nibbleInRange n.val
  | .skp x | .sknp x | .ldVxDT x | .ldVxK x | .ldDTVx x | .ldSTVx x | .addIVx x | .ldFVx x
  | .ldBVx x | .ldMemVx x | .ldVxMem x => regInRange x.val

end Sys2Proof
end

