-- ==== Sys2Proof/Decode.lean ====
section
/-! DEFINITION. The decoder of spec/30_encoding.md rules R90 to R103, the opcode table of rule R95, and
the encoder of rule R102. The bit patterns are the spec's general knowledge (log entry 2). -/

namespace Sys2Proof

/-! ### Fields (R91) -/

/-- The register index or count a nibble stands for. -/
def nibbleIndex (b : BitVec 4) : Fin 16 := ⟨b.toNat, b.isLt⟩

/-- The nibble of a register index or count. -/
def indexNibble (k : Fin 16) : BitVec 4 := BitVec.ofNat 4 k.val

/-- `op = w[15:12]`, the family selector. -/
def fieldOp (w : Word) : BitVec 4 := w.extractLsb' 12 4

/-- `x = w[11:8]`. -/
def fieldX (w : Word) : Reg := nibbleIndex (w.extractLsb' 8 4)

/-- `y = w[7:4]`. -/
def fieldY (w : Word) : Reg := nibbleIndex (w.extractLsb' 4 4)

/-- `n = w[3:0]`, as the bits a sub-code is read from. -/
def fieldN (w : Word) : BitVec 4 := w.extractLsb' 0 4

/-- `kk = w[7:0]`. -/
def fieldKK (w : Word) : Byte := w.extractLsb' 0 8

/-- `nnn = w[11:0]`. -/
def fieldNNN (w : Word) : Addr12 := w.extractLsb' 0 12

/-! ### The decode procedure (R94) -/

/-- Family 0: whole words only (R99). -/
def decodeFamily0 (w : Word) : Option Instr :=
  if w = 0x00E0#16 then some .cls
  else if w = 0x00EE#16 then some .ret
  else none

/-- Family 8: the low nibble is the sub-code. -/
def decodeFamily8 (w : Word) : Option Instr :=
  match fieldN w with
  | 0x0#4 => some (.ldReg (fieldX w) (fieldY w))
  | 0x1#4 => some (.orReg (fieldX w) (fieldY w))
  | 0x2#4 => some (.andReg (fieldX w) (fieldY w))
  | 0x3#4 => some (.xorReg (fieldX w) (fieldY w))
  | 0x4#4 => some (.addReg (fieldX w) (fieldY w))
  | 0x5#4 => some (.subReg (fieldX w) (fieldY w))
  | 0x6#4 => some (.shr (fieldX w) (fieldY w))
  | 0x7#4 => some (.subnReg (fieldX w) (fieldY w))
  | 0xE#4 => some (.shl (fieldX w) (fieldY w))
  | _ => none

/-- Family E: the low byte is the sub-code. -/
def decodeFamilyE (w : Word) : Option Instr :=
  match fieldKK w with
  | 0x9E#8 => some (.skp (fieldX w))
  | 0xA1#8 => some (.sknp (fieldX w))
  | _ => none

/-- Family F: the low byte is the sub-code. -/
def decodeFamilyF (w : Word) : Option Instr :=
  match fieldKK w with
  | 0x07#8 => some (.ldVxDT (fieldX w))
  | 0x0A#8 => some (.ldVxK (fieldX w))
  | 0x15#8 => some (.ldDTVx (fieldX w))
  | 0x18#8 => some (.ldSTVx (fieldX w))
  | 0x1E#8 => some (.addIVx (fieldX w))
  | 0x29#8 => some (.ldFVx (fieldX w))
  | 0x33#8 => some (.ldBVx (fieldX w))
  | 0x55#8 => some (.ldMemVx (fieldX w))
  | 0x65#8 => some (.ldVxMem (fieldX w))
  | _ => none

/-- `Decode(w)` of R94: a pure function of the word; `none` is the answer "unrecognized" (R97). -/
def decodeWord (w : Word) : Option Instr :=
  match fieldOp w with
  | 0x0#4 => decodeFamily0 w
  | 0x1#4 => some (.jp (fieldNNN w))
  | 0x2#4 => some (.call (fieldNNN w))
  | 0x3#4 => some (.seImm (fieldX w) (fieldKK w))
  | 0x4#4 => some (.sneImm (fieldX w) (fieldKK w))
  | 0x5#4 => if fieldN w = 0x0#4 then some (.seReg (fieldX w) (fieldY w)) else none
  | 0x6#4 => some (.ldImm (fieldX w) (fieldKK w))
  | 0x7#4 => some (.addImm (fieldX w) (fieldKK w))
  | 0x8#4 => decodeFamily8 w
  | 0x9#4 => if fieldN w = 0x0#4 then some (.sneReg (fieldX w) (fieldY w)) else none
  | 0xA#4 => some (.ldI (fieldNNN w))
  | 0xB#4 => some (.jpV0 (fieldNNN w))
  | 0xC#4 => some (.rnd (fieldX w) (fieldKK w))
  | 0xD#4 => some (.drw (fieldX w) (fieldY w) (nibbleIndex (fieldN w)))
  | 0xE#4 => decodeFamilyE w
  | 0xF#4 => decodeFamilyF w
  | _ => none

/-! ### Bytes (R60, R90) -/

/-- The word two bytes form: the byte at the lower address is the high byte (R60; log entry 1). -/
def wordOfBytes (hi lo : Byte) : Word := hi ++ lo

/-- The byte of a word that is stored at the lower address. -/
def highByte (w : Word) : Byte := w.extractLsb' 8 8

/-- The byte of a word that is stored at the higher address. -/
def lowByte (w : Word) : Byte := w.extractLsb' 0 8

/-- Why bytes are no instruction. -/
inductive DecodeReject where
  /-- Fewer than the two bytes of an instruction (R90). -/
  | tooShort
  /-- The word matches no row of the opcode table (R97). -/
  | unrecognized (w : Word)
  deriving DecidableEq, Repr

/-- Reads one instruction from the front of any bytes, with the bytes left over, or says by name why there
is none. -/
def decode : List Byte → Except DecodeReject (Instr × List Byte)
  | hi :: lo :: rest =>
    match decodeWord (wordOfBytes hi lo) with
    | some i => .ok (i, rest)
    | none => .error (.unrecognized (wordOfBytes hi lo))
  | [] | [_] => .error .tooShort

/-! ### The encoder (R92, R95, R102) -/

/-- Format `A`: selector, `nnn`. -/
def formatA (op : BitVec 4) (nnn : Addr12) : Word := op ++ nnn

/-- Formats `XK` and `XS`: selector, `x`, a byte that is `kk` or a sub-code. -/
def formatXK (op : BitVec 4) (x : Reg) (kk : Byte) : Word := op ++ (indexNibble x ++ kk)

/-- Formats `XY` and `XYN`: selector, `x`, `y`, a nibble that is a sub-code or `n`. -/
def formatXY (op : BitVec 4) (x y : Reg) (n : BitVec 4) : Word :=
  op ++ (indexNibble x ++ (indexNibble y ++ n))

/-- `Encode(variant, fields)` of R102, row by row of the table of R95. -/
def encodeWord : Instr → Word
  | .cls => 0x00E0
  | .ret => 0x00EE
  | .jp nnn => formatA 0x1 nnn
  | .call nnn => formatA 0x2 nnn
  | .seImm x kk => formatXK 0x3 x kk
  | .sneImm x kk => formatXK 0x4 x kk
  | .seReg x y => formatXY 0x5 x y 0x0
  | .ldImm x kk => formatXK 0x6 x kk
  | .addImm x kk => formatXK 0x7 x kk
  | .ldReg x y => formatXY 0x8 x y 0x0
  | .orReg x y => formatXY 0x8 x y 0x1
  | .andReg x y => formatXY 0x8 x y 0x2
  | .xorReg x y => formatXY 0x8 x y 0x3
  | .addReg x y => formatXY 0x8 x y 0x4
  | .subReg x y => formatXY 0x8 x y 0x5
  | .shr x y => formatXY 0x8 x y 0x6
  | .subnReg x y => formatXY 0x8 x y 0x7
  | .shl x y => formatXY 0x8 x y 0xE
  | .sneReg x y => formatXY 0x9 x y 0x0
  | .ldI nnn => formatA 0xA nnn
  | .jpV0 nnn => formatA 0xB nnn
  | .rnd x kk => formatXK 0xC x kk
  | .drw x y n => formatXY 0xD x y (indexNibble n)
  | .skp x => formatXK 0xE x 0x9E
  | .sknp x => formatXK 0xE x 0xA1
  | .ldVxDT x => formatXK 0xF x 0x07
  | .ldVxK x => formatXK 0xF x 0x0A
  | .ldDTVx x => formatXK 0xF x 0x15
  | .ldSTVx x => formatXK 0xF x 0x18
  | .addIVx x => formatXK 0xF x 0x1E
  | .ldFVx x => formatXK 0xF x 0x29
  | .ldBVx x => formatXK 0xF x 0x33
  | .ldMemVx x => formatXK 0xF x 0x55
  | .ldVxMem x => formatXK 0xF x 0x65

/-- The two bytes of an instruction, in the order memory holds them (R60). -/
def encode (i : Instr) : List Byte := [highByte (encodeWord i), lowByte (encodeWord i)]

/-! ### The opcode table as data (R95) -/

/-- A row of the table: a word `w` selects it when `w & mask = value` (R95's "match"). -/
structure OpcodeRow where
  variant : String
  value : Word
  mask : Word
  deriving DecidableEq, Repr

/-- Does the word select the row? -/
def rowSelects (row : OpcodeRow) (w : Word) : Bool := w &&& row.mask == row.value

/-- Rows 1 to 9 of R95. -/
def opcodeRows1to9 : List OpcodeRow :=
  [⟨"CLS", 0x00E0, 0xFFFF⟩, ⟨"RET", 0x00EE, 0xFFFF⟩, ⟨"JP", 0x1000, 0xF000⟩,
   ⟨"CALL", 0x2000, 0xF000⟩, ⟨"SE_imm", 0x3000, 0xF000⟩, ⟨"SNE_imm", 0x4000, 0xF000⟩,
   ⟨"SE_reg", 0x5000, 0xF00F⟩, ⟨"LD_imm", 0x6000, 0xF000⟩, ⟨"ADD_imm", 0x7000, 0xF000⟩]

/-- Rows 10 to 18 of R95, family 8. -/
def opcodeRows10to18 : List OpcodeRow :=
  [⟨"LD_reg", 0x8000, 0xF00F⟩, ⟨"OR", 0x8001, 0xF00F⟩, ⟨"AND", 0x8002, 0xF00F⟩,
   ⟨"XOR", 0x8003, 0xF00F⟩, ⟨"ADD_reg", 0x8004, 0xF00F⟩, ⟨"SUB", 0x8005, 0xF00F⟩,
   ⟨"SHR", 0x8006, 0xF00F⟩, ⟨"SUBN", 0x8007, 0xF00F⟩, ⟨"SHL", 0x800E, 0xF00F⟩]

/-- Rows 19 to 25 of R95. -/
def opcodeRows19to25 : List OpcodeRow :=
  [⟨"SNE_reg", 0x9000, 0xF00F⟩, ⟨"LD_I", 0xA000, 0xF000⟩, ⟨"JP_V0", 0xB000, 0xF000⟩,
   ⟨"RND", 0xC000, 0xF000⟩, ⟨"DRW", 0xD000, 0xF000⟩, ⟨"SKP", 0xE09E, 0xF0FF⟩,
   ⟨"SKNP", 0xE0A1, 0xF0FF⟩]

/-- Rows 26 to 34 of R95, family F. -/
def opcodeRows26to34 : List OpcodeRow :=
  [⟨"LD_Vx_DT", 0xF007, 0xF0FF⟩, ⟨"LD_Vx_K", 0xF00A, 0xF0FF⟩, ⟨"LD_DT_Vx", 0xF015, 0xF0FF⟩,
   ⟨"LD_ST_Vx", 0xF018, 0xF0FF⟩, ⟨"ADD_I_Vx", 0xF01E, 0xF0FF⟩, ⟨"LD_F_Vx", 0xF029, 0xF0FF⟩,
   ⟨"LD_B_Vx", 0xF033, 0xF0FF⟩, ⟨"LD_mI_Vx", 0xF055, 0xF0FF⟩, ⟨"LD_Vx_mI", 0xF065, 0xF0FF⟩]

/-- The opcode table of R95, 34 rows in the table's order. -/
def opcodeTable : List OpcodeRow :=
  opcodeRows1to9 ++ opcodeRows10to18 ++ opcodeRows19to25 ++ opcodeRows26to34

/-- The name rule R95 gives an instruction's row. -/
def variantName : Instr → String
  | .cls => "CLS"
  | .ret => "RET"
  | .jp _ => "JP"
  | .call _ => "CALL"
  | .seImm _ _ => "SE_imm"
  | .sneImm _ _ => "SNE_imm"
  | .seReg _ _ => "SE_reg"
  | .ldImm _ _ => "LD_imm"
  | .addImm _ _ => "ADD_imm"
  | .ldReg _ _ => "LD_reg"
  | .orReg _ _ => "OR"
  | .andReg _ _ => "AND"
  | .xorReg _ _ => "XOR"
  | .addReg _ _ => "ADD_reg"
  | .subReg _ _ => "SUB"
  | .shr _ _ => "SHR"
  | .subnReg _ _ => "SUBN"
  | .shl _ _ => "SHL"
  | .sneReg _ _ => "SNE_reg"
  | .ldI _ => "LD_I"
  | .jpV0 _ => "JP_V0"
  | .rnd _ _ => "RND"
  | .drw _ _ _ => "DRW"
  | .skp _ => "SKP"
  | .sknp _ => "SKNP"
  | .ldVxDT _ => "LD_Vx_DT"
  | .ldVxK _ => "LD_Vx_K"
  | .ldDTVx _ => "LD_DT_Vx"
  | .ldSTVx _ => "LD_ST_Vx"
  | .addIVx _ => "ADD_I_Vx"
  | .ldFVx _ => "LD_F_Vx"
  | .ldBVx _ => "LD_B_Vx"
  | .ldMemVx _ => "LD_mI_Vx"
  | .ldVxMem _ => "LD_Vx_mI"

/-! ### The host's question about a table row -/

/-- The instruction word of a table row's bits: bit 0 of `w` is the least significant bit of the word, and
every bit from `nbits` up is 0. -/
def tableWord (nbits w : Nat) : Word := BitVec.ofNat 16 (w % 2 ^ nbits)

/-- The instruction the decoder reads from an instruction whose bits are `w`, laid out in memory order. -/
def decodeTableWord (nbits w : Nat) : Option Instr :=
  match decode [highByte (tableWord nbits w), lowByte (tableWord nbits w)] with
  | .ok (i, _) => some i
  | .error _ => none

end Sys2Proof
end

