-- ==== Sys2Proof/Config.lean ====
section
/-! DEFINITION. The parameters of the machine: those spec/00_scope.md rule R5 fixes, and the one free
value of rule R6 that an instruction draws. -/

namespace Sys2Proof.Config

/-- `PROG_START`: the address of the first program byte and the reset value of `pc` (R5). -/
def progStart : Word := 0x200

/-- `FONT_BASE`: the address of the first font byte (R5). -/
def fontBase : Word := 0x000

/-- The most bytes a program image may have: 4096 - 0x200 (R6, R262). -/
def imageMax : Nat := 3584

/-- FREE VALUE (log entry 6). The byte the random-byte input supplies at the `k`-th execution of
`RND Vx, kk` of a run (R13, R171, U10 of 93_implementation_defined.md): any byte, under no law, so it has
no body and nothing can be proved of its value. -/
opaque randByte : Nat → Byte

/-- The bytes of `customaryFont`, a glyph of 5 bytes each. -/
def customaryFontBytes : List Byte :=
  [0xF0, 0x90, 0x90, 0x90, 0xF0] ++ [0x20, 0x60, 0x20, 0x20, 0x70] ++
  [0xF0, 0x10, 0xF0, 0x80, 0xF0] ++ [0xF0, 0x10, 0xF0, 0x10, 0xF0] ++
  [0x90, 0x90, 0xF0, 0x10, 0x10] ++ [0xF0, 0x80, 0xF0, 0x10, 0xF0] ++
  [0xF0, 0x80, 0xF0, 0x90, 0xF0] ++ [0xF0, 0x10, 0x20, 0x40, 0x40] ++
  [0xF0, 0x90, 0xF0, 0x90, 0xF0] ++ [0xF0, 0x90, 0xF0, 0x10, 0xF0] ++
  [0xF0, 0x90, 0xF0, 0x90, 0x90] ++ [0xE0, 0x90, 0xE0, 0x90, 0xE0] ++
  [0xF0, 0x80, 0x80, 0x80, 0xF0] ++ [0xE0, 0x90, 0x90, 0x90, 0xE0] ++
  [0xF0, 0x80, 0xF0, 0x80, 0xF0] ++ [0xF0, 0x80, 0xF0, 0x80, 0x80]

/-- PRESUMED (log entry 23). The customary font, 16 glyphs of 5 bytes, the default that G3 of
93_implementation_defined.md offers for tests. `FONT` is a parameter of the boot; no rule of the core
depends on these values. -/
def customaryFont : Vector Byte 80 := ⟨customaryFontBytes.toArray, rfl⟩

end Sys2Proof.Config
end

