-- ==== Sys2Proof/Machine/State.lean ====
section
/-! DEFINITION. The state of the machine: every element spec/10_state.md rules R20 to R36 name, the fault
record of spec/60_exceptions.md rule R220, one counter of the model's own, and the state after reset
(rule R42). Plain data. -/

namespace Sys2Proof.Machine

/-- Memory (R33) as the cells that do not read as 0, by strictly rising address. -/
abbrev Memory := List Host.Cell

/-- Every cell from address `lo` on is in canonical form: rising addresses below 4096, no zero byte. -/
def Memory.wfFrom (lo : Nat) : Memory → Bool
  | [] => true
  | (a, b) :: m => decide (lo ≤ a) && decide (a < 4096) && (b != 0#8) && Memory.wfFrom (a + 1) m

/-- The canonical form of memory. -/
def Memory.wf (m : Memory) : Bool := Memory.wfFrom 0 m

/-- What an address that is not listed reads as: 0, the reset contents of memory (R42). -/
def Memory.unlisted : Byte := 0#8

/-- The space a bounds violation happened in (R220). -/
inductive Space where
  /-- A memory byte above address 4095. -/
  | mem
  /-- A key index above 15. -/
  | key
  deriving DecidableEq, Repr

/-- The four kinds of fatal condition (R220), with the extra information each carries. -/
inductive FatalKind where
  /-- The fetched word is unrecognized (R221). -/
  | decodeFailure
  /-- `CALL` with 16 entries on the stack (R222). -/
  | stackOverflow
  /-- `RET` with an empty stack (R223). -/
  | stackUnderflow
  /-- An index outside its space: the first offending address, or the key index (R224). -/
  | boundsViolation (space : Space) (index : Nat)
  deriving DecidableEq, Repr

/-- The record latched for `fault_out` when a fatal condition is raised (R220): `word` is `last_opcode`
and `pc` is `pc` at that moment. -/
structure FatalRecord where
  kind : FatalKind
  word : Word
  pc : Word
  deriving DecidableEq, Repr

/-- The whole state of the core. -/
structure State where
  /-- The 16 general registers; `V[15]` is `VF` (R20, R21). -/
  V : Vector Byte 16
  /-- The program counter (R22). -/
  pc : Word
  /-- The index register (R26). -/
  I : Word
  /-- The number of return addresses on the call stack, 0 to 16 (R27). -/
  sp : Fin 17
  /-- The call stack, live entries `stack[0]` to `stack[sp-1]` (R28). -/
  stack : Vector Word 16
  /-- The delay timer (R29). -/
  DT : Byte
  /-- The sound timer (R29). -/
  ST : Byte
  /-- The most recently fetched word (R30). -/
  lastOpcode : Word
  /-- The fault latch (R31). -/
  faulted : Bool
  /-- The record of the first fatal condition since reset, if there was one (R220, code 0 is `none`). -/
  faultRec : Option FatalRecord
  /-- Memory (R33). -/
  mem : Memory
  /-- The framebuffer, 32 rows of 64 columns, true is lit (R34). -/
  fb : Vector (Vector Bool 64) 32
  /-- The key flags, written by the host only (R35). -/
  key : Vector Bool 16
  /-- The MODEL's own counter of random bytes consumed, from which the next free value is drawn (log entry
  6); the spec's state has no such element. -/
  randDraws : Nat
  deriving DecidableEq, Repr

/-- Why the machine stops with a fault. The four fatal conditions of the spec are no constructors here: the
spec gives the whole state after them, so they are next states with the latch set (log entry 3). -/
inductive Fault where
  /-- The load port was given an address that is no cell of memory (R37: "address 0 to 4095"). Raised by
  `loadByte` of Machine/Ports.lean only, never by a step. Safe: the model stops where the spec gives the
  host no such move. -/
  | noSuchCell (address : Nat)
  deriving DecidableEq, Repr

/-- Why an instruction or a host action has no meaning in the model. -/
inductive Refusal where
  /-- An instruction without a meaning yet, rejected by name in `exec`. No arm of `exec` raises it now.
  Safe: the model stops. -/
  | notModelled (mnemonic : String)
  /-- A program image longer than 3584 bytes (R262, U20). Raised by `installImage` of Machine/Ports.lean
  only, never by a step. Safe: the model refuses what the spec requires the loader not to do. -/
  | imageTooLong (length : Nat)
  /-- A load after the first tick since reset (R37, R38: the host is assumed never to do it). Raised by
  `portStep` of Machine/Ports.lean only, never by a step. Safe: the model gives the host no such move (log
  entry 20). -/
  | loadAfterTick
  deriving DecidableEq, Repr

/-- The machine right after reset (R42, R260). The values of `I`, `sp`, `lastOpcode` and `faulted` are the
spec's own decisions D7 and D15 (log entries 3 and 5); `randDraws` is the model's (log entry 6). -/
def State.reset : State where
  V := Vector.replicate 16 0#8
  pc := Config.progStart
  I := 0#16
  sp := 0
  stack := Vector.replicate 16 0#16
  DT := 0#8
  ST := 0#8
  lastOpcode := 0#16
  faulted := false
  faultRec := none
  mem := []
  fb := Vector.replicate 32 (Vector.replicate 64 false)
  key := Vector.replicate 16 false
  randDraws := 0

end Sys2Proof.Machine
end

