-- ==== Sys2Proof/Machine/Ops.lean ====
section
/-! DEFINITION. The named operations every instruction is written with: reads and writes of each piece of
state, the memory primitives of spec/00_scope.md rule R10, raising a fatal condition (rule R11), and the
parts of the tick (spec/40_cycle_driver.md rules R121, R122, R125). -/

namespace Sys2Proof.Machine

/-- What a meaning answers. -/
abbrev Result := Host.Outcome State Fault Refusal

/-! ### Memory as data -/

/-- The byte at an address. -/
def Memory.read : Memory → Nat → Byte
  | [], _ => Memory.unlisted
  | (a, b) :: m, k => if a = k then b else Memory.read m k

/-- The cell `(k, v)` before the later cells `m`, unless it reads as an unlisted address does. -/
def Memory.place (k : Nat) (v : Byte) (m : Memory) : Memory :=
  if v = Memory.unlisted then m else (k, v) :: m

/-- Writes a byte, keeping the canonical form: writing what an unlisted address reads as removes the
entry. -/
def Memory.write : Memory → Nat → Byte → Memory
  | [], k, v => Memory.place k v []
  | (a, b) :: m, k, v =>
    if k < a then Memory.place k v ((a, b) :: m)
    else if k = a then Memory.place k v m
    else (a, b) :: Memory.write m k v

/-! ### Reads and writes of the registers -/

/-- `V[r]`. -/
def State.reg (s : State) (r : Reg) : Byte := s.V[r.val]

/-- `V[r] <- v`. -/
def State.setReg (s : State) (r : Reg) (v : Byte) : State := { s with V := s.V.set r.val v }

/-- `VF`, the flag register (R21). -/
def flagReg : Reg := 15

/-- `VF <- v`. -/
def State.setFlag (s : State) (v : Byte) : State := s.setReg flagReg v

/-- `pc <- t`. -/
def State.setPc (s : State) (t : Word) : State := { s with pc := t }

/-- `I <- v`. -/
def State.setIndex (s : State) (v : Word) : State := { s with I := v }

/-- `DT <- v`. -/
def State.setDelay (s : State) (v : Byte) : State := { s with DT := v }

/-- `ST <- v`. -/
def State.setSound (s : State) (v : Byte) : State := { s with ST := v }

/-! ### The call stack (R27, R28; log entry 19) -/

/-- The entry of slot `k`. -/
def State.slot (s : State) (k : Fin 16) : Word := s.stack[k.val]

/-- `stack[sp] <- w; sp <- sp + 1`, for `sp < 16`. -/
def State.push (s : State) (w : Word) (h : s.sp.val < 16) : State :=
  { s with stack := s.stack.set s.sp.val w, sp := ⟨s.sp.val + 1, by omega⟩ }

/-- `sp <- sp - 1; pc <- stack[sp]`, for `sp > 0`; the slot keeps its value. -/
def State.popPc (s : State) (h : 0 < s.sp.val) : State :=
  { s with sp := ⟨s.sp.val - 1, by omega⟩, pc := s.slot ⟨s.sp.val - 1, by omega⟩ }

/-! ### Memory (R10) -/

/-- `MemCheck(a, n)` passes: no byte is touched, or the last one is at 4095 or below. The sum is a natural
number and never wraps (log entry 15). -/
def memInBounds (a n : Nat) : Bool := n == 0 || decide (a + n ≤ 4096)

/-- The byte at address `a` of memory, for an address that passed `memInBounds`. -/
def State.readByte (s : State) (a : Nat) : Byte := s.mem.read a

/-- `mem[a] <- v`, for an address that passed `memInBounds`. -/
def State.writeByte (s : State) (a : Nat) (v : Byte) : State := { s with mem := s.mem.write a v }

/-- `V[k]` to `mem[I + k]` for `k` from 0 to `count - 1` in increasing order (R184). -/
def State.storeRegs (s : State) (count : Nat) : State :=
  (List.range count).foldl
    (fun t k => t.writeByte (t.I.toNat + k) (t.reg (Fin.ofNat 16 k))) s

/-- `mem[I + k]` to `V[k]` for `k` from 0 to `count - 1` in increasing order (R185). -/
def State.loadRegs (s : State) (count : Nat) : State :=
  (List.range count).foldl
    (fun t k => t.setReg (Fin.ofNat 16 k) (t.readByte (t.I.toNat + k))) s

/-! ### The framebuffer (R34) -/

/-- `fb[r][c]`. -/
def State.cell (s : State) (r : Fin 32) (c : Fin 64) : Bool := s.fb[r.val][c.val]

/-- `fb[r][c] <- b`. -/
def State.setCell (s : State) (r : Fin 32) (c : Fin 64) (b : Bool) : State :=
  { s with fb := s.fb.set r.val (s.fb[r.val].set c.val b) }

/-- Every cell false (R190). -/
def State.clearCells (s : State) : State :=
  { s with fb := Vector.replicate 32 (Vector.replicate 64 false) }

/-- One set bit of a sprite at a cell: a lit cell is a collision, and the cell is inverted (R191). -/
def State.xorCell (s : State) (r : Fin 32) (c : Fin 64) : State :=
  (if s.cell r c then s.setFlag 1#8 else s).setCell r c (!s.cell r c)

/-! ### Keys (R35) -/

/-- `key[k]`. -/
def State.keyDown (s : State) (k : Fin 16) : Bool := s.key[k.val]

/-- `KEY_SCAN_COUNT` (R5): wait-for-key scans the indices below it (log entry 17). -/
def keyScanCount : Nat := 15

/-- The lowest pressed key among the scanned indices (R203). -/
def State.firstKey (s : State) : Option (Fin 16) :=
  ((List.range keyScanCount).map (Fin.ofNat 16)).find? s.keyDown

/-! ### The random byte (R13; log entry 6) -/

/-- The byte the random-byte input supplies for this execution: a free value. -/
def State.randomByte (s : State) : Byte := Config.randByte s.randDraws

/-- One random byte is consumed. -/
def State.consumeRandom (s : State) : State := { s with randDraws := s.randDraws + 1 }

/-! ### Raising a fatal condition (R11, R227)

There is no return from it and no instruction for it (R229): only reset clears the latch. -/

/-- `raise K(info)`: the latch is set and the record is `{kind, last_opcode, pc}` as they are now (R220; log
entry 14). Nothing else changes. -/
def State.raise (s : State) (k : FatalKind) : State :=
  { s with faulted := true, faultRec := some ⟨k, s.lastOpcode, s.pc⟩ }

/-- `raise BoundsViolation(mem, max(a, 4096))`, the failing `MemCheck` of a range that begins at `a`
(R10). -/
def State.raiseMem (s : State) (a : Nat) : State :=
  s.raise (.boundsViolation .mem (max a 4096))

/-! ### Parts of the tick -/

/-- `MemRead(pc, 2)`: the high byte is at the lower address (R60, R121). -/
def State.fetchWord (s : State) : Word :=
  wordOfBytes (s.readByte s.pc.toNat) (s.readByte (s.pc.toNat + 1))

/-- `last_opcode <- w` (R121). -/
def State.latchOpcode (s : State) (w : Word) : State := { s with lastOpcode := w }

/-- `pc <- pc + 2` (R122); also the skip of the skip instructions. -/
def State.advance (s : State) : State := s.setPc (s.pc + 2#16)

/-- A timer's step: minus 1 while greater than zero (R29). -/
def timerPred (t : Byte) : Byte := if t = 0#8 then 0#8 else t - 1#8

/-- Both timers' step at the end of a tick that did not fault (R125, R126). -/
def State.runTimers (s : State) : State :=
  if s.faulted then s else { s with DT := timerPred s.DT, ST := timerPred s.ST }

/-! ### Placing an instruction -/

/-- The state with the fault latch clear. -/
def State.clearLatch (s : State) : State := { s with faulted := false, faultRec := none }

/-- `s` with the word `w` stored where the next tick fetches. A latched fault would stop that tick and a
`pc` above 4094 would make it fault, so the one is cleared and the other is put at `PROG_START` (log entry
18). -/
def State.placeWord (s : State) (w : Word) : State :=
  let s1 := if s.faulted then s.clearLatch else s
  let s2 := if memInBounds s1.pc.toNat 2 then s1 else s1.setPc Config.progStart
  (s2.writeByte s2.pc.toNat (highByte w)).writeByte (s2.pc.toNat + 1) (lowByte w)

end Sys2Proof.Machine
end

