-- ==== Sys2Proof/Machine/Operands.lean ====
section
/-! DEFINITION. Operand forms: immediates as the state takes them (spec/30_encoding.md rule R93), decimal
digits (rule R183), and the coordinates and bits of a sprite (rule R191). -/

namespace Sys2Proof.Machine

/-- `zext_16(nnn)`. -/
def immAddr (nnn : Addr12) : Word := nnn.setWidth 16

/-- `zext_16(V[r])`. -/
def State.regWide (s : State) (r : Reg) : Word := (s.reg r).setWidth 16

/-- `FONT_BASE + 5 * zext_16(d)`, with no mask on `d` (R182). -/
def fontAddr (d : Byte) : Word := Config.fontBase + 5#16 * d.setWidth 16

/-- The hundreds digit, `v div 100` (R183). -/
def hundreds (v : Byte) : Byte := BitVec.ofNat 8 (v.toNat / 100)

/-- The tens digit, `(v div 10) mod 10`. -/
def tens (v : Byte) : Byte := BitVec.ofNat 8 (v.toNat / 10 % 10)

/-- The units digit, `v mod 10`. -/
def units (v : Byte) : Byte := BitVec.ofNat 8 (v.toNat % 10)

/-- `(vy + row) mod 32` (R191). -/
def spriteRow (vy : Byte) (row : Nat) : Fin 32 := Fin.ofNat 32 (vy.toNat + row)

/-- `(vx + col) mod 64` (R191). -/
def spriteCol (vx : Byte) (col : Nat) : Fin 64 := Fin.ofNat 64 (vx.toNat + col)

/-- Bit 7 of a sprite byte is its leftmost pixel (R191 (a); log entry 11). -/
def spriteBit (b : Byte) (col : Nat) : Bool := (b >>> (7 - col)) &&& 1#8 == 1#8

/-- The pixel at column `col` of the sprite row that holds the byte `b`. -/
def State.drawPixel (s : State) (vx vy b : Byte) (row col : Nat) : State :=
  if spriteBit b col then s.xorCell (spriteRow vy row) (spriteCol vx col) else s

/-- One sprite row, its 8 columns in increasing order. -/
def State.drawRow (s : State) (vx vy b : Byte) (row : Nat) : State :=
  (List.range 8).foldl (fun t col => t.drawPixel vx vy b row col) s

/-- The sprite's `n` rows in increasing order, row `k` from the byte at `I + k`. -/
def State.drawSprite (s : State) (vx vy : Byte) (n : Nat) : State :=
  (List.range n).foldl (fun t row => t.drawRow vx vy (t.readByte (t.I.toNat + row)) row) s

end Sys2Proof.Machine
end

