-- ==== Sys2Proof/Machine/Alu.lean ====
section
/-! DEFINITION. Register loads, arithmetic, logic, shifts and random (spec/42_alu.md). Statements run in the
order of the pseudocode (rule R12), which decides the forms with `x = 15` (log entries 9 and 10). -/

namespace Sys2Proof.Machine

/-- `LD Vx, kk` (R160). -/
def execLdImm (x : Reg) (kk : Byte) (s : State) : Result := .next (s.setReg x kk)

/-- `ADD Vx, kk` (R161): no flag. -/
def execAddImm (x : Reg) (kk : Byte) (s : State) : Result := .next (s.setReg x (s.reg x + kk))

/-- `LD Vx, Vy` (R162). -/
def execLdReg (x y : Reg) (s : State) : Result := .next (s.setReg x (s.reg y))

/-- `OR Vx, Vy` (R163): no flag. -/
def execOrReg (x y : Reg) (s : State) : Result := .next (s.setReg x (s.reg x ||| s.reg y))

/-- `AND Vx, Vy` (R164): no flag. -/
def execAndReg (x y : Reg) (s : State) : Result := .next (s.setReg x (s.reg x &&& s.reg y))

/-- `XOR Vx, Vy` (R165): no flag. -/
def execXorReg (x y : Reg) (s : State) : Result := .next (s.setReg x (s.reg x ^^^ s.reg y))

/-- `ADD Vx, Vy` (R166): the sum, then the carry of the operands as they were. -/
def execAddReg (x y : Reg) (s : State) : Result :=
  .next ((s.setReg x (s.reg x + s.reg y)).setFlag (carryFlag (s.reg x) (s.reg y)))

/-- `SUB Vx, Vy` (R167): the difference, then the no-borrow flag of the operands as they were. -/
def execSubReg (x y : Reg) (s : State) : Result :=
  .next ((s.setReg x (s.reg x - s.reg y)).setFlag (noBorrowFlag (s.reg x) (s.reg y)))

/-- `SHR Vx` (R168): the flag, then the shift of the register as the flag left it. -/
def execShr (x _y : Reg) (s : State) : Result :=
  let s1 := s.setFlag (lowBitFlag (s.reg x))
  .next (s1.setReg x (s1.reg x >>> 1))

/-- `SUBN Vx, Vy` (R169): the reversed difference, then its no-borrow flag. -/
def execSubnReg (x y : Reg) (s : State) : Result :=
  .next ((s.setReg x (s.reg y - s.reg x)).setFlag (noBorrowFlag (s.reg y) (s.reg x)))

/-- `SHL Vx` (R170): the flag, then the shift of the register as the flag left it. -/
def execShl (x _y : Reg) (s : State) : Result :=
  let s1 := s.setFlag (highBitFlag (s.reg x))
  .next (s1.setReg x (s1.reg x <<< 1))

/-- `RND Vx, kk` (R171): exactly one random byte is consumed, whatever `kk` is. -/
def execRnd (x : Reg) (kk : Byte) (s : State) : Result :=
  .next (s.consumeRandom.setReg x (s.randomByte &&& kk))

end Sys2Proof.Machine
end

