-- ==== Sys2Proof/Machine/Display.lean ====
section
/-! DEFINITION. Clear screen and draw sprite (spec/44_display.md). -/

namespace Sys2Proof.Machine

/-- `CLS` (R190). -/
def execCls (s : State) : Result := .next s.clearCells

/-- `DRW Vx, Vy, n` (R191): the coordinates are sampled and the whole range is checked before `VF` is
cleared (log entry 11). -/
def execDrw (x y : Reg) (n : Fin 16) (s : State) : Result :=
  if memInBounds s.I.toNat n.val then
    .next ((s.setFlag 0#8).drawSprite (s.reg x) (s.reg y) n.val)
  else .next (s.raiseMem s.I.toNat)

end Sys2Proof.Machine
end

