-- ==== Sys2Proof/Machine/Flow.lean ====
section
/-! DEFINITION. Control transfer (spec/41_flow.md). `pc` is the fetch address plus 2 when a meaning runs
(rule R122). -/

namespace Sys2Proof.Machine

/-- The next state of a skip: 2 more bytes when the condition holds (R143). -/
def State.skipIf (s : State) (cond : Bool) : State := if cond then s.advance else s

/-- `RET` (R140). -/
def execRet (s : State) : Result :=
  if h : 0 < s.sp.val then .next (s.popPc h) else .next (s.raise .stackUnderflow)

/-- `JP nnn` (R141). -/
def execJp (nnn : Addr12) (s : State) : Result := .next (s.setPc (immAddr nnn))

/-- `CALL nnn` (R142): the pushed address is the advanced `pc`. -/
def execCall (nnn : Addr12) (s : State) : Result :=
  if h : s.sp.val < 16 then .next ((s.push s.pc h).setPc (immAddr nnn))
  else .next (s.raise .stackOverflow)

/-- `SE Vx, kk` (R143). -/
def execSeImm (x : Reg) (kk : Byte) (s : State) : Result := .next (s.skipIf (s.reg x == kk))

/-- `SNE Vx, kk` (R144). -/
def execSneImm (x : Reg) (kk : Byte) (s : State) : Result := .next (s.skipIf (s.reg x != kk))

/-- `SE Vx, Vy` (R145). -/
def execSeReg (x y : Reg) (s : State) : Result := .next (s.skipIf (s.reg x == s.reg y))

/-- `SNE Vx, Vy` (R146). -/
def execSneReg (x y : Reg) (s : State) : Result := .next (s.skipIf (s.reg x != s.reg y))

/-- `JP V0, nnn` (R147): the register is always `V[0]`; the sum is not reduced to 12 bits. -/
def execJpV0 (nnn : Addr12) (s : State) : Result :=
  .next (s.setPc (immAddr nnn + s.regWide 0))

end Sys2Proof.Machine
end

