-- ==== Sys2Proof/Machine/IndexMemory.lean ====
section
/-! DEFINITION. Index register, decimal digits, block store and block load (spec/43_index_memory.md). Every
check precedes every write (rule R11) and `I` is never modified by an access (rule R179; log entry 16). -/

namespace Sys2Proof.Machine

/-- `LD I, nnn` (R180). -/
def execLdI (nnn : Addr12) (s : State) : Result := .next (s.setIndex (immAddr nnn))

/-- `ADD I, Vx` (R181): modulo 65536, no flag. -/
def execAddIVx (x : Reg) (s : State) : Result := .next (s.setIndex (s.I + s.regWide x))

/-- `LD F, Vx` (R182). -/
def execLdFVx (x : Reg) (s : State) : Result := .next (s.setIndex (fontAddr (s.reg x)))

/-- `LD B, Vx` (R183). -/
def execLdBVx (x : Reg) (s : State) : Result :=
  if memInBounds s.I.toNat 3 then
    .next (((s.writeByte s.I.toNat (hundreds (s.reg x))).writeByte
      (s.I.toNat + 1) (tens (s.reg x))).writeByte (s.I.toNat + 2) (units (s.reg x)))
  else .next (s.raiseMem s.I.toNat)

/-- `LD [I], Vx` (R184). -/
def execLdMemVx (x : Reg) (s : State) : Result :=
  if memInBounds s.I.toNat (x.val + 1) then .next (s.storeRegs (x.val + 1))
  else .next (s.raiseMem s.I.toNat)

/-- `LD Vx, [I]` (R185). -/
def execLdVxMem (x : Reg) (s : State) : Result :=
  if memInBounds s.I.toNat (x.val + 1) then .next (s.loadRegs (x.val + 1))
  else .next (s.raiseMem s.I.toNat)

end Sys2Proof.Machine
end

