-- ==== Sys2Proof/Machine/KeysTimers.lean ====
section
/-! DEFINITION. Keys and timers (spec/45_keys_timers.md). -/

namespace Sys2Proof.Machine

/-- `SKP Vx` (R200): an index above 15 is a bounds violation, never masked (log entry 12). -/
def execSkp (x : Reg) (s : State) : Result :=
  if h : (s.reg x).toNat < 16 then .next (s.skipIf (s.keyDown ⟨(s.reg x).toNat, h⟩))
  else .next (s.raise (.boundsViolation .key (s.reg x).toNat))

/-- `SKNP Vx` (R201). -/
def execSknp (x : Reg) (s : State) : Result :=
  if h : (s.reg x).toNat < 16 then .next (s.skipIf (!s.keyDown ⟨(s.reg x).toNat, h⟩))
  else .next (s.raise (.boundsViolation .key (s.reg x).toNat))

/-- `LD Vx, DT` (R202). -/
def execLdVxDT (x : Reg) (s : State) : Result := .next (s.setReg x s.DT)

/-- `LD Vx, K` (R203): the lowest pressed key of the scanned ones, else back to this instruction's own
address. -/
def execLdVxK (x : Reg) (s : State) : Result :=
  match s.firstKey with
  | some k => .next (s.setReg x (BitVec.ofNat 8 k.val))
  | none => .next (s.setPc (s.pc - 2#16))

/-- `LD DT, Vx` (R204). -/
def execLdDTVx (x : Reg) (s : State) : Result := .next (s.setDelay (s.reg x))

/-- `LD ST, Vx` (R205). -/
def execLdSTVx (x : Reg) (s : State) : Result := .next (s.setSound (s.reg x))

end Sys2Proof.Machine
end

