-- ==== Sys2Proof/Machine/Tick.lean ====
section
/-! DEFINITION. The cycle driver's one tick (spec/40_cycle_driver.md rules R120 to R127). -/

namespace Sys2Proof.Machine

/-- The end of a tick: the timers run unless the instruction raised a fatal condition (R125, R126). -/
def finishTick : Result → Result
  | .next s => .next s.runTimers
  | .fault r => .fault r
  | .refused r => .refused r

/-- The tick from the decode on (R123, R124): `s` has the word `w` latched and `pc` advanced. -/
def decodeAndExecute (w : Word) (s : State) : Result :=
  match decodeWord w with
  | none => .next (s.raise .decodeFailure)
  | some i => finishTick (exec i s)

/-- `Tick()` of R120: fetch, advance, decode, execute, decrement; nothing while faulted (R127). -/
def tick (s : State) : Result :=
  if s.faulted then .next s
  else if memInBounds s.pc.toNat 2 then
    decodeAndExecute s.fetchWord (s.latchOpcode s.fetchWord).advance
  else .next (s.raiseMem s.pc.toNat)

end Sys2Proof.Machine
end

