-- ==== Sys2Proof/Machine/Ports.lean ====
section
/-! DEFINITION. The ports of the core (spec/10_state.md rules R37, R38, R43; spec/60_exceptions.md rule R220;
spec/70_reset_and_hazards.md rules R260 to R263): what the host can do to the machine between ticks, and what
it can read. Nothing here is part of a step (log entries 7, 18 and 20). -/

namespace Sys2Proof.Machine

/-! ### Inputs -/

/-- The `load` port: one byte at an address 0 to 4095. -/
def loadByte (a : Nat) (b : Byte) (s : State) : Result :=
  if a < 4096 then .next (s.writeByte a b) else .fault (.noSuchCell a)

/-- The `key_in` port: the flag of one key. -/
def keyIn (k : Fin 16) (down : Bool) (s : State) : State := { s with key := s.key.set k.val down }

/-- Bytes to consecutive addresses from `base` on, in order. -/
def State.loadBytes (s : State) (base : Nat) : List Byte → State
  | [] => s
  | b :: bs => (s.writeByte base b).loadBytes (base + 1) bs

/-- The loader's first duty: the 80 font bytes at `FONT_BASE` (R261). -/
def installFont (font : Vector Byte 80) (s : State) : State :=
  s.loadBytes Config.fontBase.toNat font.toList

/-- The loader's second duty: the image at `PROG_START`, byte `j` to `0x200 + j` (R262). A longer image than
fits is refused (D29, U20). -/
def installImage (image : List Byte) (s : State) : Result :=
  if image.length ≤ Config.imageMax then .next (s.loadBytes Config.progStart.toNat image)
  else .refused (.imageTooLong image.length)

/-- The state the first tick sees: reset, font, image (R43, R263). -/
def boot (font : Vector Byte 80) (image : List Byte) : Result :=
  installImage image (installFont font State.reset)

/-! ### Outputs -/

/-- `fb_out`: true is a lit pixel. -/
def fbOut (s : State) (r : Fin 32) (c : Fin 64) : Bool := s.cell r c

/-- What `diag_out` shows (R37; the last five fields by this spec's decision D1). -/
structure Diag where
  lastOpcode : Word
  V : Vector Byte 16
  stack : Vector Word 16
  I : Word
  pc : Word
  sp : Fin 17
  DT : Byte
  ST : Byte
  faulted : Bool
  deriving DecidableEq, Repr

/-- `diag_out`, read-only (R236). -/
def diagOut (s : State) : Diag :=
  { lastOpcode := s.lastOpcode, V := s.V, stack := s.stack, I := s.I, pc := s.pc, sp := s.sp,
    DT := s.DT, ST := s.ST, faulted := s.faulted }

/-- The code of a kind of fatal condition (R220). -/
def fatalCode : FatalKind → Nat
  | .decodeFailure => 1
  | .stackOverflow => 2
  | .stackUnderflow => 3
  | .boundsViolation _ _ => 4

/-- The field `space` of the record: only a bounds violation has one (R220). -/
def fatalSpace : FatalKind → Option Space
  | .boundsViolation sp _ => some sp
  | .decodeFailure | .stackOverflow | .stackUnderflow => none

/-- The field `index` of the record: only a bounds violation has one (R220). -/
def fatalIndex : FatalKind → Option Nat
  | .boundsViolation _ k => some k
  | .decodeFailure | .stackOverflow | .stackUnderflow => none

/-- `fault_out`: the record, if a fatal condition was raised since reset. -/
def faultOut (s : State) : Option FatalRecord := s.faultRec

/-- The code on `fault_out`; 0 is no fatal condition since reset (R220). -/
def faultCode (s : State) : Nat :=
  match s.faultRec with
  | none => 0
  | some r => fatalCode r.kind

/-! ### Reset -/

/-- The `reset` port (R37, R42, R260): every element of the spec's state at its reset value. DESIGN CHOICE (log
entry 6): a reset does not rewind the random-byte input, on which the spec says nothing, so the model's own
counter `randDraws` goes on and the bytes drawn after a reset are as free as those before it (R13, R272). -/
def resetCore (s : State) : State := { State.reset with randDraws := s.randDraws }

/-! ### A run as the host sees it -/

/-- What the host may do to the core, one thing at a time (R38). `rand_in` is inside a tick. -/
inductive PortEvent where
  | reset
  | load (address : Nat) (b : Byte)
  | tick
  | keyIn (k : Fin 16) (down : Bool)
  deriving DecidableEq, Repr

/-- The core with the one thing the host's rules depend on: has a tick happened since reset? -/
structure Session where
  ticked : Bool
  core : State
  deriving DecidableEq, Repr

/-- A core's answer as a session. -/
def asSession (ticked : Bool) : Result → Host.Outcome Session Fault Refusal
  | .next s => .next ⟨ticked, s⟩
  | .fault r => .fault r
  | .refused r => .refused r

/-- One event at the ports. A reset leaves the random-byte input where it is (`resetCore`; log entry 6). -/
def portStep (e : PortEvent) (u : Session) : Host.Outcome Session Fault Refusal :=
  match e with
  | .reset => .next ⟨false, resetCore u.core⟩
  | .load a b => if u.ticked then .refused .loadAfterTick else asSession false (loadByte a b u.core)
  | .tick => asSession true (step u.core)
  | .keyIn k down => .next { u with core := keyIn k down u.core }

/-- Events one after another, stopping at the first that has no next state. -/
def portRun : List PortEvent → Session → Host.Outcome Session Fault Refusal
  | [], u => .next u
  | e :: es, u =>
    match portStep e u with
    | .next v => portRun es v
    | .fault r => .fault r
    | .refused r => .refused r

/-! ### The end of a run (R6, R129; log entry 25) -/

/-- The `key_in` writes of the host between two ticks, in order. -/
def writeKeys (ws : List (Fin 16 × Bool)) (s : State) : State :=
  ws.foldl (fun t w => keyIn w.1 w.2 t) s

/-- A run is over: the parameter `END_OF_RUN` holds and no fatal condition is latched (R6; R127: "A faulted
state is never the proper end of a run"). -/
def runOver (endOfRun : State → Bool) (s : State) : Bool := !s.faulted && endOfRun s

/-- The run from `s` with the parameter `END_OF_RUN`: before each tick the host writes the keys listed for it,
and it ticks no more once the run is over or its list is used up. DESIGN CHOICE (log entry 25): whether the run
is over is asked before the host writes the keys for the next tick, so of the state a tick left (or the first
state), and never of the state between those writes and the tick. -/
def runUntil (endOfRun : State → Bool) : List (List (Fin 16 × Bool)) → State → Result
  | [], s => .next s
  | ws :: inputs, s =>
    if runOver endOfRun s then .next s
    else
      match step (writeKeys ws s) with
      | .next t => runUntil endOfRun inputs t
      | .fault r => .fault r
      | .refused r => .refused r

/-- A program's run with every parameter of R6 an argument: `FONT`, `IMAGE`, `END_OF_RUN` and the key writes.
The random bytes are the free values of log entry 6, and no rule uses `CADENCE`. -/
def runProgram (font : Vector Byte 80) (image : List Byte) (endOfRun : State → Bool)
    (inputs : List (List (Fin 16 × Bool))) : Result :=
  match boot font image with
  | .next s => runUntil endOfRun inputs s
  | .fault r => .fault r
  | .refused r => .refused r

end Sys2Proof.Machine
end

