-- ==== Sys2Proof/Safety.lean ====
section
/-! DEFINITION. The terms claims are stated in: the parts of the state and what it means that only some of them
change, the raising of a fatal condition as the spec describes it, the invariants of the machine, and the
spec's own tables of what an instruction may write and when it raises. -/

namespace Sys2Proof.Machine

/-! ### Frames -/

/-- One readable part of the state. -/
inductive Part where
  | reg (r : Reg)
  | pc
  | index
  | sp
  | slot (k : Fin 16)
  | delay
  | sound
  | lastOpcode
  | faulted
  | faultRec
  | byte (a : Nat)
  | cell (r : Fin 32) (c : Fin 64)
  | key (k : Fin 16)
  | draws
  deriving DecidableEq, Repr

/-- The part reads the same in `t` as in `s`. -/
def Part.Same (s t : State) : Part → Prop
  | .reg r => t.reg r = s.reg r
  | .pc => t.pc = s.pc
  | .index => t.I = s.I
  | .sp => t.sp = s.sp
  | .slot k => t.slot k = s.slot k
  | .delay => t.DT = s.DT
  | .sound => t.ST = s.ST
  | .lastOpcode => t.lastOpcode = s.lastOpcode
  | .faulted => t.faulted = s.faulted
  | .faultRec => t.faultRec = s.faultRec
  | .byte a => t.readByte a = s.readByte a
  | .cell r c => t.cell r c = s.cell r c
  | .key k => t.keyDown k = s.keyDown k
  | .draws => t.randDraws = s.randDraws

/-- Every part outside `written` reads the same in `t` as in `s`: every other register, special register and
latch, every other byte of memory, framebuffer cell and key. -/
def OnlyChanges (written : Part → Prop) (s t : State) : Prop :=
  ∀ p : Part, ¬ written p → p.Same s t

/-- Raising `k` (R11, R220, R227): the latch is set, the record is the kind with `last_opcode` and `pc` as
they are, and nothing else changes. -/
def Raises (k : FatalKind) (s t : State) : Prop :=
  t.faulted = true ∧ t.faultRec = some ⟨k, s.lastOpcode, s.pc⟩ ∧
    OnlyChanges (· ∈ [.faulted, .faultRec]) s t

/-! ### What the spec says an instruction may write (R26, R27, R29, R33, R34, R35, R39) -/

/-- The parts an instruction may write in the state `s` when it raises nothing. -/
def mayWrite (s : State) : Instr → Part → Prop
  | .cls => fun p => ∃ r c, p = .cell r c
  | .ret => (· ∈ [.sp, .pc])
  | .jp _ | .jpV0 _ => (· = .pc)
  | .call _ => fun p => p = .sp ∨ p = .pc ∨ ∃ k : Fin 16, k.val = s.sp.val ∧ p = .slot k
  | .seImm _ _ | .sneImm _ _ | .seReg _ _ | .sneReg _ _ | .skp _ | .sknp _ => (· = .pc)
  | .ldImm x _ | .addImm x _ | .ldReg x _ | .orReg x _ | .andReg x _ | .xorReg x _
  | .ldVxDT x => (· = .reg x)
  | .addReg x _ | .subReg x _ | .shr x _ | .subnReg x _ | .shl x _ =>
      (· ∈ [.reg x, .reg flagReg])
  | .ldI _ | .addIVx _ | .ldFVx _ => (· = .index)
  | .rnd x _ => (· ∈ [.reg x, .draws])
  | .drw _ _ _ => fun p => p = .reg flagReg ∨ ∃ r c, p = .cell r c
  | .ldVxK x => (· ∈ [.reg x, .pc])
  | .ldDTVx _ => (· = .delay)
  | .ldSTVx _ => (· = .sound)
  | .ldBVx _ => fun p => ∃ k < 3, p = .byte (s.I.toNat + k)
  | .ldMemVx x => fun p => ∃ k ≤ x.val, p = .byte (s.I.toNat + k)
  | .ldVxMem x => fun p => ∃ r : Reg, r.val ≤ x.val ∧ p = .reg r

/-- The bounds violation of a range of `n` bytes at `a` (R10), if there is one. -/
def rangeViolation (a n : Nat) : Option FatalKind :=
  if n > 0 ∧ a + n - 1 > 4095 then some (.boundsViolation .mem (max a 4096)) else none

/-- The bounds violation of a key index (R200, R201), if there is one. -/
def keyViolation (k : Nat) : Option FatalKind :=
  if k > 15 then some (.boundsViolation .key k) else none

/-- The fatal condition an instruction raises in the state `s` (R220, R224, R225), if any. -/
def fatalCondition (s : State) : Instr → Option FatalKind
  | .ret => if s.sp.val = 0 then some .stackUnderflow else none
  | .call _ => if s.sp.val = 16 then some .stackOverflow else none
  | .drw _ _ n => rangeViolation s.I.toNat n.val
  | .ldBVx _ => rangeViolation s.I.toNat 3
  | .ldMemVx x | .ldVxMem x => rangeViolation s.I.toNat (x.val + 1)
  | .skp x | .sknp x => keyViolation (s.reg x).toNat
  | .cls | .jp _ | .seImm _ _ | .sneImm _ _ | .seReg _ _ | .sneReg _ _ | .jpV0 _ | .ldImm _ _
  | .addImm _ _ | .ldReg _ _ | .orReg _ _ | .andReg _ _ | .xorReg _ _ | .addReg _ _
  | .subReg _ _ | .shr _ _ | .subnReg _ _ | .shl _ _ | .rnd _ _ | .ldI _ | .addIVx _
  | .ldFVx _ | .ldVxDT _ | .ldVxK _ | .ldDTVx _ | .ldSTVx _ => none

/-! ### Sprites (R191) -/

/-- A set bit of the sprite of `n` rows at column `vx` and row `vy` falls on the cell `(r, c)`. -/
def SpriteCovers (s : State) (vx vy : Byte) (n : Nat) (r : Fin 32) (c : Fin 64) : Prop :=
  ∃ row < n, ∃ col < 8, (s.readByte (s.I.toNat + row)).getLsbD (7 - col) = true ∧
    r.val = (vy.toNat + row) % 32 ∧ c.val = (vx.toNat + col) % 64

/-! ### Invariants -/

/-- Memory is in its canonical form. -/
def MemCanonical (s : State) : Prop := s.mem.wf = true

/-- The latch is set exactly when there is a record, and a latched record still shows the `last_opcode` and
`pc` it was made from (R31, R127, R220). -/
def LatchCoherent (s : State) : Prop :=
  s.faulted = s.faultRec.isSome ∧
    ∀ r, s.faultRec = some r → r.word = s.lastOpcode ∧ r.pc = s.pc

/-- Every `pc` the machine can reach is in 0 to 0x10FE, and a stack slot holds 0 or an advanced `pc`, at most
4096 (R24). -/
def PcInRange (s : State) : Prop :=
  s.pc.toNat ≤ 0x10FE ∧ ∀ k, (s.slot k).toNat ≤ 4096

/-- The invariant of the machine. -/
def Inv (s : State) : Prop := MemCanonical s ∧ LatchCoherent s ∧ PcInRange s

/-- A run is safe as long as no fatal condition has been raised (R220, R227). -/
def Safe (s : State) : Prop := s.faulted = false

/-- The suggested instance of `END_OF_RUN` (D25; log entry 25): the word at `pc` is a jump to itself. -/
abbrev AtSelfJump (s : State) : Prop := s.pc.toNat ≤ 4094 ∧ s.fetchWord = 0x1000#16 + s.pc

/-- That instance as an argument for the parameter `END_OF_RUN` of `runUntil`. -/
def selfJumpEnd (s : State) : Bool := decide (AtSelfJump s)

/-! ### States that differ in one element -/

/-- `s` with another key state. -/
def State.withKeys (s : State) (key : Vector Bool 16) : State := { s with key := key }

/-- `s` with another framebuffer. -/
def State.withScreen (s : State) (fb : Vector (Vector Bool 64) 32) : State := { s with fb := fb }

/-- `s` with another count of random bytes consumed. -/
def State.withDraws (s : State) (n : Nat) : State := { s with randDraws := n }

/-- Instructions executed one after another, without the ticks around them. -/
def execAll : List Instr → State → Result
  | [], s => .next s
  | i :: is, s =>
    match exec i s with
    | .next t => execAll is t
    | .fault r => .fault r
    | .refused r => .refused r

/-- A next state changed by `f`; the other answers are left as they are. -/
def mapNext (f : State → State) : Result → Result
  | .next s => .next (f s)
  | .fault r => .fault r
  | .refused r => .refused r

end Sys2Proof.Machine
end

