-- ==== Sys2Proof/Certificates/Slice0/Obligations.lean ====
section
/-! DEFINITION. The statements for the provers. Each docstring names the rule of spec/ it formalises, or the
section it rests on together with the decision (D<n> of 92_eei_decisions.md) that makes it the spec's own
choice. Next states are compared through reads: `OnlyChanges w s t` says that every register, special
register, latch, byte of memory, framebuffer cell, key and stack slot outside `w` reads in `t` as in `s`. -/

open Sys2Proof Sys2Proof.Machine

/-! ### Encoding -/

/-- Words written out from the patterns of 30_encoding.md section 3 (vectors K1 to K34 of 95_test_vectors.md)
decode to the instructions they stand for; the patterns are the spec's general knowledge (log entry 2). -/
def Obligations.SampleWordsDecode : Prop :=
  decodeWord 0x00E0 = some .cls ∧ decodeWord 0x00EE = some .ret ∧
  decodeWord 0x1ABC = some (.jp 0xABC) ∧ decodeWord 0x2FFF = some (.call 0xFFF) ∧
  decodeWord 0x3A07 = some (.seImm 10 0x07) ∧ decodeWord 0x4F00 = some (.sneImm 15 0x00) ∧
  decodeWord 0x5AB0 = some (.seReg 10 11) ∧ decodeWord 0x6FFF = some (.ldImm 15 0xFF) ∧
  decodeWord 0x7000 = some (.addImm 0 0) ∧ decodeWord 0x8127 = some (.subnReg 1 2) ∧
  decodeWord 0x81FE = some (.shl 1 15) ∧ decodeWord 0x9AB0 = some (.sneReg 10 11) ∧
  decodeWord 0xA123 = some (.ldI 0x123) ∧ decodeWord 0xB000 = some (.jpV0 0) ∧
  decodeWord 0xC1F0 = some (.rnd 1 0xF0) ∧ decodeWord 0xDABF = some (.drw 10 11 15) ∧
  decodeWord 0xEFA1 = some (.sknp 15) ∧ decodeWord 0xF00A = some (.ldVxK 0) ∧
  decodeWord 0xFF65 = some (.ldVxMem 15) ∧ decodeWord 0x5001 = none ∧ decodeWord 0x0000 = none

/-- 30_encoding.md section 7: `Decode(Encode(v)) = v` for every variant with fields in range, on words and on
the bytes memory holds. -/
def Obligations.DecodeOfEncodeIsInstruction : Prop :=
  ∀ i : Instr, i.WellFormed →
    decodeWord (encodeWord i) = some i ∧ ∀ rest, decode (encode i ++ rest) = .ok (i, rest)

/-- 30_encoding.md section 7: `Encode(Decode(w)) = w` for every recognized `w`, so no two recognized words
are one instruction; and the words of `SHR` (of `SHL`) that differ in `y` have the same effect. -/
def Obligations.EncodeOfDecodeIsWord : Prop :=
  (∀ w i, decodeWord w = some i → encodeWord i = w) ∧
  ∀ x y y' s, exec (.shr x y) s = exec (.shr x y') s ∧ exec (.shl x y) s = exec (.shl x y') s

/-- 30_encoding.md section 3, the opcode table (its values are the spec's general knowledge, log entry 2): the
rows are disjoint, a word is unrecognized exactly when no row selects it, and a recognized word's row is
that of its variant. -/
def Obligations.DecoderIsTheOpcodeTable : Prop :=
  opcodeTable.Pairwise (fun a b => ∀ w, ¬(rowSelects a w = true ∧ rowSelects b w = true)) ∧
  (∀ w, decodeWord w = none ↔ ∀ row ∈ opcodeTable, rowSelects row w = false) ∧
  ∀ w i, decodeWord w = some i →
    ∃ row ∈ opcodeTable, row.variant = variantName i ∧ rowSelects row w = true

/-- 30_encoding.md section 4: the complete set of unrecognized words, family by family (decisions D4 and D5 on
families 0 and 9). -/
def Obligations.UnrecognizedWordsListed : Prop :=
  ∀ w : Word, decodeWord w = none ↔
    (w.toNat / 4096 = 0 ∧ w ≠ 0x00E0#16 ∧ w ≠ 0x00EE#16) ∨
    (w.toNat / 4096 = 5 ∧ w.toNat % 16 ≠ 0) ∨
    (w.toNat / 4096 = 8 ∧ (8 ≤ w.toNat % 16 ∧ w.toNat % 16 ≤ 13 ∨ w.toNat % 16 = 15)) ∨
    (w.toNat / 4096 = 9 ∧ w.toNat % 16 ≠ 0) ∨
    (w.toNat / 4096 = 14 ∧ w.toNat % 256 ∉ [0x9E, 0xA1]) ∨
    (w.toNat / 4096 = 15 ∧
      w.toNat % 256 ∉ [0x07, 0x0A, 0x15, 0x18, 0x1E, 0x29, 0x33, 0x55, 0x65])

/-! ### The tick -/

/-- 40_cycle_driver.md section 1: a step at bytes that decode runs that instruction, with the fetched word
latched and `pc` two further before it, and the timers' step after it unless it raised a fatal condition
(decision D14). -/
def Obligations.StepRunsDecodedInstruction : Prop :=
  ∀ (s : State) (i : Instr) (w : Word), s.faulted = false → s.pc.toNat ≤ 4094 →
    w = wordOfBytes (s.readByte s.pc.toNat) (s.readByte (s.pc.toNat + 1)) →
    decodeWord w = some i → i.WellFormed →
    step s = match exec i ((s.latchOpcode w).setPc (s.pc + 2)) with
      | .next t => .next (if t.faulted then t else
          (t.setDelay (if 0#8 < t.DT then t.DT - 1 else t.DT)).setSound
            (if 0#8 < t.ST then t.ST - 1 else t.ST))
      | .fault r => .fault r
      | .refused r => .refused r

/-- R122. In every tick that fetched, `pc` is two further before the decode: the decoder's failure leaves it
so, and a decoded instruction runs with it so; the sum stays in 16 bits. -/
def Obligations.PcAdvancesBeforeDecode : Prop :=
  ∀ s : State, s.faulted = false → s.pc.toNat ≤ 4094 →
    (s.pc + 2).toNat = s.pc.toNat + 2 ∧
    (decodeWord s.fetchWord = none → ∃ t, step s = .next t ∧ t.pc = s.pc + 2) ∧
    ∀ i, decodeWord s.fetchWord = some i → ∃ u : State, u.pc = s.pc + 2 ∧
      OnlyChanges (· ∈ [.pc, .lastOpcode]) s u ∧ step s = finishTick (exec i u)

/-- 10_state.md section 4 and 20_memory.md section 1 (big-endian by the spec's general knowledge, log entry 1):
every tick that fetches leaves the fetched word in `last_opcode`, whatever it ran, and the word is the byte
at `pc` times 256 plus the byte after it. -/
def Obligations.FetchedWordIsLatched : Prop :=
  ∀ s t : State, s.faulted = false → s.pc.toNat ≤ 4094 → step s = .next t →
    t.lastOpcode = s.fetchWord ∧ s.fetchWord.toNat =
      (s.readByte s.pc.toNat).toNat * 256 + (s.readByte (s.pc.toNat + 1)).toNat

/-- R125. After an instruction has completed, each timer is one less, floored at 0, and nothing else changes;
so a timer just loaded is decremented in the same tick, and `LD Vx, DT` gets the value before it. -/
def Obligations.TimersStepAfterInstruction : Prop :=
  ∀ (s t : State) (i : Instr), s.faulted = false → s.pc.toNat ≤ 4094 →
    decodeWord s.fetchWord = some i →
    exec i ((s.latchOpcode s.fetchWord).setPc (s.pc + 2)) = .next t → t.faulted = false →
    ∃ u, step s = .next u ∧ u.DT.toNat = t.DT.toNat - 1 ∧ u.ST.toNat = t.ST.toNat - 1 ∧
      OnlyChanges (· ∈ [.delay, .sound]) t u ∧
      (∀ x, i = .ldDTVx x → u.DT.toNat = (s.reg x).toNat - 1) ∧
      (∀ x, i = .ldSTVx x → u.ST.toNat = (s.reg x).toNat - 1) ∧
      (∀ x, i = .ldVxDT x → u.reg x = s.DT)

/-- 40_cycle_driver.md section 1 (decision D15, log entry 3): while `faulted` is true a tick does nothing, and
reset clears the latch. -/
def Obligations.FaultedTickDoesNothing : Prop :=
  (∀ s : State, s.faulted = true → step s = .next s) ∧
  ∀ u : Session, ∃ v, portStep .reset u = .next v ∧ v.core.faulted = false

/-- 40_cycle_driver.md section 1 (decision D14, log entry 3): what a faulting tick has changed. After a fetch
fault only the latch; after any other, the advanced `pc` and the fetched word too; the timers not. The record
shows the word and `pc` of that moment (decision D17, log entry 14). -/
def Obligations.FaultingTickChangesLittle : Prop :=
  ∀ s t : State, s.faulted = false → step s = .next t → t.faulted = true →
    (∃ k, t.faultRec = some ⟨k, t.lastOpcode, t.pc⟩) ∧
    (4094 < s.pc.toNat → OnlyChanges (· ∈ [.faulted, .faultRec]) s t) ∧
    (s.pc.toNat ≤ 4094 → t.pc = s.pc + 2 ∧ t.lastOpcode = s.fetchWord ∧
      OnlyChanges (· ∈ [.pc, .lastOpcode, .faulted, .faultRec]) s t)

/-- 40_cycle_driver.md section 1 (decision D13, log entry 13): a fetch outside memory raises a bounds
violation before anything is changed. What it latches, the fault latch and a record with the word and `pc` of
that moment (60_exceptions.md section 1), is decisions D15 and D17 (log entries 3 and 14). -/
def Obligations.FetchOutsideMemoryRaises : Prop :=
  ∀ s : State, s.faulted = false → 4094 < s.pc.toNat →
    ∃ t, step s = .next t ∧ Raises (.boundsViolation .mem (max s.pc.toNat 4096)) s t

/-- R221. An unrecognized word, zeroed memory among them, raises `DecodeFailure` carrying the offending word
and the current program counter. -/
def Obligations.UnrecognizedWordRaises : Prop :=
  decodeWord 0x0000 = none ∧
  ∀ s : State, s.faulted = false → s.pc.toNat ≤ 4094 → decodeWord s.fetchWord = none →
    ∃ t, step s = .next t ∧ t.faulted = true ∧
      t.faultRec = some ⟨.decodeFailure, s.fetchWord, t.pc⟩

/-- 60_exceptions.md section 1, the table of fatal conditions and its list of what can and cannot fault
(decisions D12 to D17): an instruction always has a next state; it raises exactly the condition the table
gives it, having written nothing else, and where the table gives none the latch is left alone. -/
def Obligations.FatalConditionsAreTheTable : Prop :=
  ∀ (i : Instr) (s : State), ∃ t, exec i s = .next t ∧
    (∀ k, fatalCondition s i = some k → Raises k s t) ∧
    (fatalCondition s i = none → t.faulted = s.faulted ∧ t.faultRec = s.faultRec)

/-- 40_cycle_driver.md section 1 and 60_exceptions.md section 4: the machine never ends a step without a next
state; a fatal condition is a state with the latch set (log entry 3). -/
def Obligations.EveryStepHasNextState : Prop := ∀ s : State, ∃ t, step s = .next t

/-! ### Frames over all instructions -/

/-- 10_state.md section 1, the table of readers and writers, with sections 2 to 7 for the rest of the state:
an instruction that raises nothing writes only the parts those rules name for it. -/
def Obligations.OnlyNamedPartsWritten : Prop :=
  ∀ (i : Instr) (s t : State), MemCanonical s → fatalCondition s i = none → exec i s = .next t →
    OnlyChanges (mayWrite s i) s t

/-- 10_state.md section 1: only the six flag-writing instructions write `VF` unless their destination field
(or the range of a block load) is register 15. -/
def Obligations.FlagWritersAreSix : Prop :=
  ∀ (i : Instr) (s t : State), exec i s = .next t → t.reg 15 ≠ s.reg 15 →
    (∃ x y, i = .addReg x y ∨ i = .subReg x y ∨ i = .shr x y ∨ i = .subnReg x y ∨ i = .shl x y) ∨
    (∃ x y n, i = .drw x y n) ∨
    (∃ y kk, i = .ldImm 15 kk ∨ i = .addImm 15 kk ∨ i = .ldReg 15 y ∨ i = .orReg 15 y ∨
      i = .andReg 15 y ∨ i = .xorReg 15 y ∨ i = .rnd 15 kk) ∨
    i = .ldVxDT 15 ∨ i = .ldVxK 15 ∨ i = .ldVxMem 15

/-- 10_state.md sections 4, 6 and 7: who may change each special register, the stack, memory and the
framebuffer; no instruction changes a key flag or the last opcode (log entry 29 on the keys). -/
def Obligations.SpecialStateWriters : Prop :=
  ∀ (i : Instr) (s t : State), exec i s = .next t →
    (∀ k, t.keyDown k = s.keyDown k) ∧ t.lastOpcode = s.lastOpcode ∧
    (t.I ≠ s.I → (∃ nnn, i = .ldI nnn) ∨ ∃ x, i = .addIVx x ∨ i = .ldFVx x) ∧
    (t.sp ≠ s.sp → i = .ret ∨ ∃ nnn, i = .call nnn) ∧
    (∀ k, t.slot k ≠ s.slot k → ∃ nnn, i = .call nnn) ∧
    (t.DT ≠ s.DT → ∃ x, i = .ldDTVx x) ∧ (t.ST ≠ s.ST → ∃ x, i = .ldSTVx x) ∧
    (∀ r c, t.cell r c ≠ s.cell r c → i = .cls ∨ ∃ x y n, i = .drw x y n) ∧
    (∀ a, t.readByte a ≠ s.readByte a → ∃ x, i = .ldBVx x ∨ i = .ldMemVx x)

/-! ### Control transfer -/

/-- R140, R223. -/
def Obligations.ReturnPopsProgramCounter : Prop :=
  ∀ s : State,
    (s.sp.val = 0 → ∃ t, exec .ret s = .next t ∧ Raises .stackUnderflow s t) ∧
    (0 < s.sp.val → ∃ t, exec .ret s = .next t ∧ t.sp.val + 1 = s.sp.val ∧
      (∀ k : Fin 16, k.val = t.sp.val → t.pc = s.slot k) ∧ OnlyChanges (· ∈ [.sp, .pc]) s t)

/-- R141. -/
def Obligations.JumpSetsProgramCounter : Prop :=
  ∀ (nnn : Addr12) (s : State), ∃ t, exec (.jp nnn) s = .next t ∧ t.pc.toNat = nnn.toNat ∧
    OnlyChanges (· = .pc) s t

/-- R142, R222. -/
def Obligations.CallPushesAndJumps : Prop :=
  ∀ (nnn : Addr12) (s : State),
    (s.sp.val = 16 → ∃ t, exec (.call nnn) s = .next t ∧ Raises .stackOverflow s t) ∧
    (s.sp.val < 16 → ∃ t, exec (.call nnn) s = .next t ∧ t.sp.val = s.sp.val + 1 ∧
      (∀ k : Fin 16, k.val = s.sp.val → t.slot k = s.pc) ∧ t.pc.toNat = nnn.toNat ∧
      OnlyChanges (fun p => p = .sp ∨ p = .pc ∨ ∃ k : Fin 16, k.val = s.sp.val ∧ p = .slot k) s t)

/-- 41_flow.md, `CALL nnn`, corner cases: call and return are strict inverses. After any calls that the stack
has room for, as many returns set `pc` to the value before the first call, `sp` too, and nothing but `pc` and
slots above the old `sp` has changed. -/
def Obligations.CallsThenReturnsRestore : Prop :=
  ∀ (targets : List Addr12) (s : State), s.sp.val + targets.length ≤ 16 →
    ∃ t u, execAll (targets.map .call) s = .next t ∧
      execAll (List.replicate targets.length .ret) t = .next u ∧
      u.pc = s.pc ∧ u.sp = s.sp ∧
      OnlyChanges (fun p => ∃ k : Fin 16, s.sp.val ≤ k.val ∧ p = .slot k) s u

/-- R143, R144, R145, R146. -/
def Obligations.CompareAndSkip : Prop :=
  ∀ (x y : Reg) (kk : Byte) (s : State),
    (∃ t, exec (.seImm x kk) s = .next t ∧ OnlyChanges (· = .pc) s t ∧
      t.pc = if (s.reg x).toNat = kk.toNat then s.pc + 2 else s.pc) ∧
    (∃ t, exec (.sneImm x kk) s = .next t ∧ OnlyChanges (· = .pc) s t ∧
      t.pc = if (s.reg x).toNat ≠ kk.toNat then s.pc + 2 else s.pc) ∧
    (∃ t, exec (.seReg x y) s = .next t ∧ OnlyChanges (· = .pc) s t ∧
      t.pc = if (s.reg x).toNat = (s.reg y).toNat then s.pc + 2 else s.pc) ∧
    (∃ t, exec (.sneReg x y) s = .next t ∧ OnlyChanges (· = .pc) s t ∧
      t.pc = if (s.reg x).toNat ≠ (s.reg y).toNat then s.pc + 2 else s.pc)

/-- 41_flow.md, `SE Vx, kk`, corner cases: over a whole tick a skip moves `pc` by 4 from the pre-fetch
position and a comparison that fails by 2. -/
def Obligations.SkipMovesFourInAll : Prop :=
  ∀ (s t : State) (x : Reg) (kk : Byte), s.faulted = false → s.pc.toNat ≤ 4094 →
    decodeWord s.fetchWord = some (.seImm x kk) → step s = .next t →
    t.pc.toNat = s.pc.toNat + if s.reg x = kk then 4 else 2

/-- R147. -/
def Obligations.JumpWithOffset : Prop :=
  ∀ (nnn : Addr12) (s : State), ∃ t, exec (.jpV0 nnn) s = .next t ∧
    t.pc.toNat = nnn.toNat + (s.reg 0).toNat ∧ OnlyChanges (· = .pc) s t

/-! ### Register loads, arithmetic, logic, shifts, random -/

/-- R160, R161: and adding `kk` and then its complement `(256 - kk) mod 256` restores the register. -/
def Obligations.LoadAndAddImmediate : Prop :=
  ∀ (x : Reg) (kk : Byte) (s : State),
    (∃ t, exec (.ldImm x kk) s = .next t ∧ t.reg x = kk ∧ OnlyChanges (· = .reg x) s t) ∧
    (∃ t, exec (.addImm x kk) s = .next t ∧
      (t.reg x).toNat = ((s.reg x).toNat + kk.toNat) % 256 ∧ OnlyChanges (· = .reg x) s t ∧
      ∀ kk' : Byte, kk'.toNat = (256 - kk.toNat) % 256 →
        ∃ u, exec (.addImm x kk') t = .next u ∧ u.reg x = s.reg x)

/-- R162, R163, R164, R165. -/
def Obligations.MoveAndLogic : Prop :=
  ∀ (x y : Reg) (s : State),
    (∃ t, exec (.ldReg x y) s = .next t ∧ t.reg x = s.reg y ∧ OnlyChanges (· = .reg x) s t) ∧
    (∃ t, exec (.orReg x y) s = .next t ∧ OnlyChanges (· = .reg x) s t ∧
      ∀ b < 8, (t.reg x).getLsbD b = ((s.reg x).getLsbD b || (s.reg y).getLsbD b)) ∧
    (∃ t, exec (.andReg x y) s = .next t ∧ OnlyChanges (· = .reg x) s t ∧
      ∀ b < 8, (t.reg x).getLsbD b = ((s.reg x).getLsbD b && (s.reg y).getLsbD b)) ∧
    (∃ t, exec (.xorReg x y) s = .next t ∧ OnlyChanges (· = .reg x) s t ∧
      ∀ b < 8, (t.reg x).getLsbD b = ((s.reg x).getLsbD b ^^ (s.reg y).getLsbD b))

/-- 42_alu.md, `ADD Vx, Vy`: the wrapped sum, then the carry of the operands as they were; with `x = 15` the
flag remains and the sum is lost (decision D9, log entry 9). -/
def Obligations.AddRegisters : Prop :=
  ∀ (x y : Reg) (s : State), ∃ t, exec (.addReg x y) s = .next t ∧
    (x ≠ 15 → (t.reg x).toNat = ((s.reg x).toNat + (s.reg y).toNat) % 256) ∧
    (t.reg 15).toNat = (if (s.reg x).toNat + (s.reg y).toNat > 255 then 1 else 0) ∧
    OnlyChanges (· ∈ [.reg x, .reg 15]) s t

/-- 42_alu.md, `SUB Vx, Vy` and `SUBN Vx, Vy`: the wrapped difference, then 1 if no borrow; with `x = 15` the
flag remains (decision D9, log entry 9). -/
def Obligations.SubtractRegisters : Prop :=
  ∀ (x y : Reg) (s : State),
    (∃ t, exec (.subReg x y) s = .next t ∧
      (x ≠ 15 → (t.reg x).toNat = ((s.reg x).toNat + 256 - (s.reg y).toNat) % 256) ∧
      (t.reg 15).toNat = (if (s.reg x).toNat ≥ (s.reg y).toNat then 1 else 0) ∧
      OnlyChanges (· ∈ [.reg x, .reg 15]) s t) ∧
    (∃ t, exec (.subnReg x y) s = .next t ∧
      (x ≠ 15 → (t.reg x).toNat = ((s.reg y).toNat + 256 - (s.reg x).toNat) % 256) ∧
      (t.reg 15).toNat = (if (s.reg y).toNat ≥ (s.reg x).toNat then 1 else 0) ∧
      OnlyChanges (· ∈ [.reg x, .reg 15]) s t)

/-- 42_alu.md, `SHR Vx` and `SHL Vx`: the bit shifted out goes to `VF`, then the register is shifted; with
`x = 15` the flag itself is shifted, so `SHR` leaves 0 and `SHL` leaves 0 or 2 (decision D10, log entry 10);
`y` is ignored (decision D6). -/
def Obligations.ShiftRegister : Prop :=
  ∀ (x y : Reg) (s : State),
    (∃ t, exec (.shr x y) s = .next t ∧
      (x ≠ 15 → (t.reg x).toNat = (s.reg x).toNat / 2 ∧
        (t.reg 15).toNat = (s.reg x).toNat % 2) ∧
      (x = 15 → (t.reg 15).toNat = 0) ∧ OnlyChanges (· ∈ [.reg x, .reg 15]) s t) ∧
    (∃ t, exec (.shl x y) s = .next t ∧
      (x ≠ 15 → (t.reg x).toNat = 2 * (s.reg x).toNat % 256 ∧
        (t.reg 15).toNat = (s.reg x).toNat / 128) ∧
      (x = 15 → (t.reg 15).toNat = 2 * ((s.reg 15).toNat / 128)) ∧
      OnlyChanges (· ∈ [.reg x, .reg 15]) s t)

/-- 42_alu.md, `RND Vx, kk`: exactly one random byte is consumed, whatever `kk` is. That the byte is the free value
`Config.randByte` at the model's own counter `randDraws`, and that the counter goes up by one, is the model's
choice (log entry 6). -/
def Obligations.RandomAndImmediate : Prop :=
  ∀ (x : Reg) (kk : Byte) (s : State), ∃ t, exec (.rnd x kk) s = .next t ∧
    t.reg x = Config.randByte s.randDraws &&& kk ∧ t.randDraws = s.randDraws + 1 ∧
    OnlyChanges (· ∈ [.reg x, .draws]) s t

/-! ### Index register and memory -/

/-- R180, R181. -/
def Obligations.IndexLoadAndAdd : Prop :=
  ∀ (nnn : Addr12) (x : Reg) (s : State),
    (∃ t, exec (.ldI nnn) s = .next t ∧ t.I.toNat = nnn.toNat ∧ OnlyChanges (· = .index) s t) ∧
    (∃ t, exec (.addIVx x) s = .next t ∧ t.I.toNat = (s.I.toNat + (s.reg x).toNat) % 65536 ∧
      OnlyChanges (· = .index) s t)

/-- 43_index_memory.md, `LD F, Vx`: five times the register, with no mask (the spec's literal reading). -/
def Obligations.FontAddressUnmasked : Prop :=
  ∀ (x : Reg) (s : State), ∃ t, exec (.ldFVx x) s = .next t ∧ t.I.toNat = 5 * (s.reg x).toNat ∧
    OnlyChanges (· = .index) s t

/-- 43_index_memory.md, `LD B, Vx`. What the violation latches, the fault latch and a record with the word and `pc` of
that moment, is the spec's decisions D15 and D17 (log entries 3 and 14). -/
def Obligations.StoreDecimalDigits : Prop :=
  ∀ (x : Reg) (s : State),
    (s.I.toNat + 2 ≤ 4095 → MemCanonical s → ∃ t, exec (.ldBVx x) s = .next t ∧
      (t.readByte s.I.toNat).toNat = (s.reg x).toNat / 100 ∧
      (t.readByte (s.I.toNat + 1)).toNat = (s.reg x).toNat / 10 % 10 ∧
      (t.readByte (s.I.toNat + 2)).toNat = (s.reg x).toNat % 10 ∧
      OnlyChanges (fun p => ∃ k < 3, p = .byte (s.I.toNat + k)) s t) ∧
    (s.I.toNat + 2 > 4095 → ∃ t, exec (.ldBVx x) s = .next t ∧
      Raises (.boundsViolation .mem (max s.I.toNat 4096)) s t)

/-- 43_index_memory.md, `LD [I], Vx`. What the violation latches, the fault latch and a record with the word and `pc` of
that moment, is the spec's decisions D15 and D17 (log entries 3 and 14). -/
def Obligations.BlockStore : Prop :=
  ∀ (x : Reg) (s : State),
    (s.I.toNat + x.val ≤ 4095 → MemCanonical s → ∃ t, exec (.ldMemVx x) s = .next t ∧
      (∀ r : Reg, r.val ≤ x.val → t.readByte (s.I.toNat + r.val) = s.reg r) ∧
      OnlyChanges (fun p => ∃ k ≤ x.val, p = .byte (s.I.toNat + k)) s t) ∧
    (s.I.toNat + x.val > 4095 → ∃ t, exec (.ldMemVx x) s = .next t ∧
      Raises (.boundsViolation .mem (max s.I.toNat 4096)) s t)

/-- 43_index_memory.md, `LD Vx, [I]`. What the violation latches, the fault latch and a record with the word and `pc` of
that moment, is the spec's decisions D15 and D17 (log entries 3 and 14). -/
def Obligations.BlockLoad : Prop :=
  ∀ (x : Reg) (s : State),
    (s.I.toNat + x.val ≤ 4095 → ∃ t, exec (.ldVxMem x) s = .next t ∧
      (∀ r : Reg, r.val ≤ x.val → t.reg r = s.readByte (s.I.toNat + r.val)) ∧
      OnlyChanges (fun p => ∃ r : Reg, r.val ≤ x.val ∧ p = .reg r) s t) ∧
    (s.I.toNat + x.val > 4095 → ∃ t, exec (.ldVxMem x) s = .next t ∧
      Raises (.boundsViolation .mem (max s.I.toNat 4096)) s t)

/-- 43_index_memory.md, `LD [I], Vx`, corner cases, and 95_test_vectors.md S6: a block load restores what a
block store stored, from any later state that still has `I` and those bytes. -/
def Obligations.BlockStoreThenLoad : Prop :=
  ∀ (x : Reg) (s : State), MemCanonical s → s.I.toNat + x.val ≤ 4095 →
    ∃ t, exec (.ldMemVx x) s = .next t ∧ ∀ t' : State, t'.I = t.I →
      (∀ k ≤ x.val, t'.readByte (t.I.toNat + k) = t.readByte (t.I.toNat + k)) →
      ∃ u, exec (.ldVxMem x) t' = .next u ∧ ∀ r : Reg, r.val ≤ x.val → u.reg r = s.reg r

/-- 20_memory.md section 7: instruction fetch is coherent with stores at once. Bytes a block store puts where
the next tick fetches are the word that tick fetches. That the byte at the lower address is the high byte is
the spec's decision D2, from general knowledge (log entry 1). -/
def Obligations.StoresAreFetchedAtOnce : Prop :=
  ∀ (s t : State) (x k : Reg), s.faulted = false → s.pc.toNat ≤ 4094 → MemCanonical s →
    decodeWord s.fetchWord = some (.ldMemVx x) → s.I.toNat + x.val ≤ 4095 →
    k.val < x.val → s.pc.toNat + 2 = s.I.toNat + k.val → step s = .next t →
    t.fetchWord = wordOfBytes (s.reg k) (s.reg (k + 1))

/-! ### Display -/

/-- R190. -/
def Obligations.ClearScreen : Prop :=
  ∀ s : State, ∃ t, exec .cls s = .next t ∧ (∀ r c, t.cell r c = false) ∧
    OnlyChanges (fun p => ∃ r c, p = .cell r c) s t

/-- 44_display.md, `DRW Vx, Vy, n` (decisions D11, D19 and D34, log entry 11): exactly the cells the sprite's
set bits cover are inverted, the coordinates being those before `VF` is written; `VF` ends as 1 if and only
if one of them was lit; a range past the end of memory raises with nothing written, and `n = 0` never does. What the violation latches,
the fault latch and a record with the word and `pc` of that moment (60_exceptions.md section 1), is decisions
D15 and D17 (log entries 3 and 14). -/
def Obligations.DrawSprite : Prop :=
  ∀ (x y : Reg) (n : Fin 16) (s : State),
    (n.val = 0 ∨ s.I.toNat + n.val - 1 ≤ 4095 → ∃ t, exec (.drw x y n) s = .next t ∧
      (∀ r c, SpriteCovers s (s.reg x) (s.reg y) n.val r c → t.cell r c = !s.cell r c) ∧
      (∀ r c, ¬ SpriteCovers s (s.reg x) (s.reg y) n.val r c → t.cell r c = s.cell r c) ∧
      ((∃ r c, SpriteCovers s (s.reg x) (s.reg y) n.val r c ∧ s.cell r c = true) →
        t.reg 15 = 1) ∧
      ((∀ r c, SpriteCovers s (s.reg x) (s.reg y) n.val r c → s.cell r c = false) →
        t.reg 15 = 0) ∧
      OnlyChanges (fun p => p = .reg 15 ∨ ∃ r c, p = .cell r c) s t) ∧
    (n.val > 0 ∧ s.I.toNat + n.val - 1 > 4095 → ∃ t, exec (.drw x y n) s = .next t ∧
      Raises (.boundsViolation .mem (max s.I.toNat 4096)) s t)

/-- 44_display.md, `DRW Vx, Vy, n`, corner case (g): a second identical draw, one with the same coordinates,
gives the framebuffer back; on a clear screen it leaves the flag at 1 if the first drew any pixel. -/
def Obligations.DrawTwiceRestoresScreen : Prop :=
  ∀ (x y : Reg) (n : Fin 16) (s t : State), exec (.drw x y n) s = .next t →
    (n.val = 0 ∨ s.I.toNat + n.val - 1 ≤ 4095) → t.reg x = s.reg x → t.reg y = s.reg y →
    ∃ u, exec (.drw x y n) t = .next u ∧ (∀ r c, u.cell r c = s.cell r c) ∧
      ((∀ r c, s.cell r c = false) → (∃ r c, t.cell r c = true) → u.reg 15 = 1)

/-! ### Keys and timers -/

/-- 45_keys_timers.md, `SKP Vx` and `SKNP Vx` (decision D12, log entry 12): the skips on a key's flag, and the
bounds violation of an index above 15. What the violation latches, the fault latch and a record with the word
and `pc` of that moment (60_exceptions.md section 1), is decisions D15 and D17 (log entries 3 and 14). -/
def Obligations.KeySkips : Prop :=
  ∀ (x : Reg) (s : State),
    (∀ k : Fin 16, (s.reg x).toNat = k.val →
      (∃ t, exec (.skp x) s = .next t ∧ OnlyChanges (· = .pc) s t ∧
        t.pc = if s.keyDown k = true then s.pc + 2 else s.pc) ∧
      (∃ t, exec (.sknp x) s = .next t ∧ OnlyChanges (· = .pc) s t ∧
        t.pc = if s.keyDown k = false then s.pc + 2 else s.pc)) ∧
    ((s.reg x).toNat > 15 →
      (∃ t, exec (.skp x) s = .next t ∧
        Raises (.boundsViolation .key (s.reg x).toNat) s t) ∧
      (∃ t, exec (.sknp x) s = .next t ∧
        Raises (.boundsViolation .key (s.reg x).toNat) s t))

/-- R202, R204, R205: with the value each timer has after the timers' step of the same tick. -/
def Obligations.TimerLoads : Prop :=
  ∀ (x : Reg) (s : State), s.faulted = false →
    (∃ t, exec (.ldVxDT x) s = .next t ∧ t.reg x = s.DT ∧ OnlyChanges (· = .reg x) s t ∧
      t.runTimers.DT.toNat = s.DT.toNat - 1) ∧
    (∃ t, exec (.ldDTVx x) s = .next t ∧ t.DT = s.reg x ∧ OnlyChanges (· = .delay) s t ∧
      t.runTimers.DT.toNat = (s.reg x).toNat - 1) ∧
    (∃ t, exec (.ldSTVx x) s = .next t ∧ t.ST = s.reg x ∧ OnlyChanges (· = .sound) s t ∧
      t.runTimers.ST.toNat = (s.reg x).toNat - 1)

/-- R203: the lowest pressed key of 0 to 14 goes to the register; with none of them pressed `pc` goes back
by 2 and nothing else changes, so that over the whole tick only the last opcode and the timers change. -/
def Obligations.WaitForKey : Prop :=
  ∀ (x : Reg) (s : State),
    (∀ k : Fin 16, k.val < 15 → s.keyDown k = true → (∀ j : Fin 16, j.val < k.val → s.keyDown j = false) →
      ∃ t, exec (.ldVxK x) s = .next t ∧ (t.reg x).toNat = k.val ∧
        OnlyChanges (· = .reg x) s t) ∧
    ((∀ k : Fin 16, k.val < 15 → s.keyDown k = false) →
      (∃ t, exec (.ldVxK x) s = .next t ∧ t.pc = s.pc - 2 ∧ OnlyChanges (· = .pc) s t) ∧
      (s.faulted = false → s.pc.toNat ≤ 4094 → decodeWord s.fetchWord = some (.ldVxK x) →
        ∃ t, step s = .next t ∧ t.lastOpcode = s.fetchWord ∧
          t.DT.toNat = s.DT.toNat - 1 ∧ t.ST.toNat = s.ST.toNat - 1 ∧
          OnlyChanges (· ∈ [.lastOpcode, .delay, .sound]) s t))

/-- 40_cycle_driver.md section 1 (decision D25, log entry 25): at a jump to itself a tick changes nothing but
the last opcode and the timers, and the machine is at that jump again. -/
def Obligations.SelfJumpStaysPut : Prop :=
  ∀ s : State, s.faulted = false → AtSelfJump s →
    ∃ t, step s = .next t ∧ OnlyChanges (· ∈ [.lastOpcode, .delay, .sound]) s t ∧ AtSelfJump t

/-! ### Invariants -/

/-- 10_state.md section 6: memory stays the 4096 cells in their canonical form, over every step. -/
def Obligations.MemoryStaysCanonical : Prop :=
  ∀ s t : State, MemCanonical s → step s = .next t → MemCanonical t

/-- 40_cycle_driver.md section 1 and 60_exceptions.md section 4 (decisions D15 to D17, log entries 3 and 14):
the latch is set exactly when a record is shown, and the record keeps showing the word and `pc` of the state,
over every step. -/
def Obligations.LatchStaysCoherent : Prop :=
  ∀ s t : State, LatchCoherent s → step s = .next t → LatchCoherent t

/-- 10_state.md section 2 (the spec's derived bound): every `pc` stays in 0 to 0x10FE and every stack slot at
most 4096, over every step, so `pc` never wraps around 16 bits. -/
def Obligations.PcStaysInRange : Prop :=
  ∀ s t : State, PcInRange s → step s = .next t → PcInRange t

/-- 10_state.md section 9: the invariants hold right after reset. -/
def Obligations.ResetMeetsInvariant : Prop := Inv State.reset

/-- 10_state.md sections 8 and 9 (decisions D1 and D30, log entries 18 and 20): whatever the host does at the
ports, from reset on, the invariants hold. -/
def Obligations.PortRunsKeepInvariant : Prop :=
  ∀ (es : List PortEvent) (v : Session),
    portRun es ⟨false, State.reset⟩ = .next v → Inv v.core

/-! ### Reset, boot and ports -/

/-- 10_state.md section 9, the reset table. The values of `I`, `sp`, `last_opcode` and `faulted` are the spec's
decisions D7 and D15 (log entries 3 and 5). -/
def Obligations.ResetValues : Prop :=
  (∀ r, State.reset.reg r = 0) ∧ (∀ a, State.reset.readByte a = 0) ∧
  (∀ k, State.reset.slot k = 0) ∧ State.reset.sp.val = 0 ∧
  State.reset.DT = 0 ∧ State.reset.ST = 0 ∧ (∀ k, State.reset.keyDown k = false) ∧
  (∀ r c, State.reset.cell r c = false) ∧ State.reset.pc = 0x200 ∧
  State.reset.I = 0 ∧ State.reset.lastOpcode = 0 ∧ State.reset.faulted = false ∧
  faultCode State.reset = 0

/-- R43. -/
def Obligations.BootInstallsFontAndImage : Prop :=
  ∀ (font : Vector Byte 80) (image : List Byte), image.length ≤ 3584 →
    ∃ t, boot font image = .next t ∧
      (∀ a : Nat, (h : a < 80) → t.readByte a = font[a]) ∧
      (∀ j : Nat, (h : j < image.length) → t.readByte (0x200 + j) = image[j]) ∧
      (∀ a : Nat, 80 ≤ a → (a < 0x200 ∨ 0x200 + image.length ≤ a) → t.readByte a = 0) ∧
      OnlyChanges (fun p => ∃ a < 4096, p = .byte a) State.reset t

/-- 10_state.md section 8 and 70_reset_and_hazards.md section 2 (decisions D1, D29 and D30, log entries 7, 18
and 20): what the input ports do and what the model gives no move for. That a reset leaves the random-byte
input where it is, so that only the model's own counter is not the reset value, is the model's choice (log
entry 6). -/
def Obligations.InputPorts : Prop :=
  (∀ k down s, (keyIn k down s).keyDown k = down ∧ OnlyChanges (· = .key k) s (keyIn k down s)) ∧
  (∀ a b s, a < 4096 → MemCanonical s → ∃ t, loadByte a b s = .next t ∧ t.readByte a = b ∧
    OnlyChanges (· = .byte a) s t) ∧
  (∀ a b s, 4096 ≤ a → loadByte a b s = .fault (.noSuchCell a)) ∧
  (∀ a b s, portStep (.load a b) ⟨true, s⟩ = .refused .loadAfterTick) ∧
  (∀ u, ∃ t, portStep .reset u = .next ⟨false, t⟩ ∧ OnlyChanges (· = .draws) State.reset t ∧
    t.randDraws = u.core.randDraws) ∧
  (∀ font image, 3584 < image.length →
    boot font image = .refused (.imageTooLong image.length))

/-! ### What is not read -/

/-- 60_exceptions.md section 2: the key state is read by three instructions and the random byte by one; every
other instruction does the same whatever they are. -/
def Obligations.OutsideInputsReadByFour : Prop :=
  (∀ (i : Instr) (s : State) (keys : Vector Bool 16),
    (∀ x, i ≠ .skp x ∧ i ≠ .sknp x ∧ i ≠ .ldVxK x) →
    exec i (s.withKeys keys) = mapNext (·.withKeys keys) (exec i s)) ∧
  ∀ (i : Instr) (s : State) (n : Nat), (∀ x kk, i ≠ .rnd x kk) →
    exec i (s.withDraws n) = mapNext (·.withDraws n) (exec i s)

/-- 10_state.md section 6: the core never reads the framebuffer except inside `DRW`; every other instruction
does the same whatever the screen shows, and `CLS` leaves nothing of it. -/
def Obligations.ScreenReadByDrawOnly : Prop :=
  ∀ (i : Instr) (s : State) (fb : Vector (Vector Bool 64) 32),
    (i ≠ .cls → (∀ x y n, i ≠ .drw x y n) →
      exec i (s.withScreen fb) = mapNext (·.withScreen fb) (exec i s)) ∧
    exec .cls (s.withScreen fb) = exec .cls s

/-! ### The end of a run -/

/-- 00_scope.md section 4 and 40_cycle_driver.md section 1 (decision D25, log entry 25): whatever the open
parameter `END_OF_RUN` is, and whatever keys the host writes, the run is that of some number `n` of ticks: after
none of the fewer ticks was it over, and after `n` it is over or the inputs are used up. That it is asked of the
state a tick left, before the next key writes, is the model's choice (log entry 25). -/
def Obligations.RunsEndByParameter : Prop :=
  ∀ (endOfRun : State → Bool) (inputs : List (List (Fin 16 × Bool))) (s : State),
    ∃ n ≤ inputs.length, ∃ t, runUntil endOfRun inputs s = .next t ∧
      runUntil (fun _ => false) (inputs.take n) s = .next t ∧
      (runOver endOfRun t = true ∨ n = inputs.length) ∧
      ∀ m < n, ∀ u, runUntil (fun _ => false) (inputs.take m) s = .next u →
        runOver endOfRun u = false
end

