-- ==== Sys2Proof/Laws/Decode.lean ====
section
/-! SUPPORT. The fields of the three word formats, and bytes against words. -/

namespace Sys2Proof

@[simp] theorem nibbleIndex_indexNibble (k : Fin 16) : nibbleIndex (indexNibble k) = k := by
  apply Fin.ext
  simp [nibbleIndex, indexNibble]

@[simp] theorem indexNibble_nibbleIndex (b : BitVec 4) : indexNibble (nibbleIndex b) = b := by
  simp [nibbleIndex, indexNibble]

@[simp] theorem wordOfBytes_high_low (w : Word) : wordOfBytes (highByte w) (lowByte w) = w := by
  apply BitVec.eq_of_getLsbD_eq
  intro k hk
  simp only [wordOfBytes, highByte, lowByte, BitVec.getLsbD_append, BitVec.getLsbD_extractLsb']
  by_cases h : k < 8
  · simp [h]
  · simp [h, show k - 8 < 8 by omega, show 8 + (k - 8) = k by omega]

theorem extract_append_high {m n : Nat} (a : BitVec m) (b : BitVec n) :
    (a ++ b).extractLsb' n m = a := by
  apply BitVec.eq_of_getLsbD_eq
  intro k hk
  simp [BitVec.getLsbD_append, hk]

theorem extract_append_low {m n : Nat} (a : BitVec m) (b : BitVec n) (st len : Nat)
    (h : st + len ≤ n) : (a ++ b).extractLsb' st len = b.extractLsb' st len := by
  apply BitVec.eq_of_getLsbD_eq
  intro k hk
  simp [BitVec.getLsbD_append, hk, show st + k < n by omega]

@[simp] theorem fieldOp_formatA (op : BitVec 4) (nnn : Addr12) : fieldOp (formatA op nnn) = op :=
  extract_append_high op nnn

@[simp] theorem fieldNNN_formatA (op : BitVec 4) (nnn : Addr12) :
    fieldNNN (formatA op nnn) = nnn := by
  unfold fieldNNN formatA
  rw [extract_append_low _ _ _ _ (by omega)]
  simp

@[simp] theorem fieldOp_formatXK (op : BitVec 4) (x : Reg) (kk : Byte) :
    fieldOp (formatXK op x kk) = op :=
  extract_append_high op (indexNibble x ++ kk)

@[simp] theorem fieldX_formatXK (op : BitVec 4) (x : Reg) (kk : Byte) :
    fieldX (formatXK op x kk) = x := by
  unfold fieldX formatXK
  rw [extract_append_low _ _ _ _ (by omega), extract_append_high, nibbleIndex_indexNibble]

@[simp] theorem fieldKK_formatXK (op : BitVec 4) (x : Reg) (kk : Byte) :
    fieldKK (formatXK op x kk) = kk := by
  unfold fieldKK formatXK
  rw [extract_append_low _ _ _ _ (by omega), extract_append_low _ _ _ _ (by omega)]
  simp

@[simp] theorem fieldOp_formatXY (op : BitVec 4) (x y : Reg) (n : BitVec 4) :
    fieldOp (formatXY op x y n) = op :=
  extract_append_high op (indexNibble x ++ (indexNibble y ++ n))

@[simp] theorem fieldX_formatXY (op : BitVec 4) (x y : Reg) (n : BitVec 4) :
    fieldX (formatXY op x y n) = x := by
  unfold fieldX formatXY
  rw [extract_append_low _ _ _ _ (by omega), extract_append_high, nibbleIndex_indexNibble]

@[simp] theorem fieldY_formatXY (op : BitVec 4) (x y : Reg) (n : BitVec 4) :
    fieldY (formatXY op x y n) = y := by
  unfold fieldY formatXY
  rw [extract_append_low _ _ _ _ (by omega), extract_append_low _ _ _ _ (by omega),
    extract_append_high, nibbleIndex_indexNibble]

@[simp] theorem fieldN_formatXY (op : BitVec 4) (x y : Reg) (n : BitVec 4) :
    fieldN (formatXY op x y n) = n := by
  unfold fieldN formatXY
  rw [extract_append_low _ _ _ _ (by omega), extract_append_low _ _ _ _ (by omega),
    extract_append_low _ _ _ _ (by omega)]
  simp

end Sys2Proof
end

