-- ==== Sys2Proof/Laws/Memory.lean ====
section
/-! SUPPORT. The laws of memory: a read after a write, and that a write keeps the canonical form, in which
equal reads make equal memories. -/

namespace Sys2Proof.Machine

@[simp] theorem Memory.read_nil (k : Nat) : Memory.read [] k = 0#8 := rfl

theorem Memory.wfFrom_cons {lo a : Nat} {b : Byte} {m : Memory} :
    Memory.wfFrom lo ((a, b) :: m) = true ↔
      lo ≤ a ∧ a < 4096 ∧ b ≠ 0#8 ∧ Memory.wfFrom (a + 1) m = true := by
  simp [Memory.wfFrom, and_assoc]

theorem Memory.wfFrom_mono {m : Memory} {lo lo' : Nat} (h : lo' ≤ lo)
    (hm : m.wfFrom lo = true) : m.wfFrom lo' = true := by
  cases m with
  | nil => rfl
  | cons c m =>
    obtain ⟨a, b⟩ := c
    rw [wfFrom_cons] at *
    exact ⟨by omega, hm.2⟩

/-- A canonical memory reads 0 below its first possible address. -/
theorem Memory.read_below {m : Memory} {lo k : Nat} (hm : m.wfFrom lo = true) (h : k < lo) :
    m.read k = 0#8 := by
  induction m generalizing lo with
  | nil => rfl
  | cons c m ih =>
    obtain ⟨a, b⟩ := c
    rw [wfFrom_cons] at hm
    have hne : a ≠ k := by omega
    simp only [Memory.read, if_neg hne]
    exact ih hm.2.2.2 (by omega)

theorem Memory.read_place {m : Memory} {k : Nat} (hm : m.wfFrom (k + 1) = true) (v : Byte)
    (j : Nat) : (Memory.place k v m).read j = if j = k then v else m.read j := by
  by_cases hj : j = k
  · subst hj
    by_cases hv : v = Memory.unlisted
    · simp [Memory.place, hv, Memory.unlisted, read_below hm (Nat.lt_succ_self j)]
    · simp [Memory.place, hv, Memory.read]
  · by_cases hv : v = Memory.unlisted
    · simp [Memory.place, hv, hj]
    · simp [Memory.place, hv, hj, Memory.read, Ne.symm hj]

theorem Memory.wfFrom_place {m : Memory} {lo k : Nat} (hm : m.wfFrom (k + 1) = true) (v : Byte)
    (hlo : lo ≤ k) (hk : k < 4096) : (Memory.place k v m).wfFrom lo = true := by
  by_cases hv : v = Memory.unlisted
  · simpa [Memory.place, hv] using wfFrom_mono (by omega) hm
  · simp only [Memory.place, if_neg hv]
    exact wfFrom_cons.mpr ⟨hlo, hk, hv, hm⟩

theorem Memory.read_write_from {m : Memory} {lo : Nat} (hm : m.wfFrom lo = true) (k : Nat) (v : Byte)
    (j : Nat) : (m.write k v).read j = if j = k then v else m.read j := by
  induction m generalizing lo with
  | nil => exact read_place rfl v j
  | cons c m ih =>
    obtain ⟨a, b⟩ := c
    have hc := wfFrom_cons.mp hm
    simp only [Memory.write]
    by_cases h1 : k < a
    · rw [if_pos h1]
      exact read_place (wfFrom_cons.mpr ⟨h1, hc.2⟩) v j
    · rw [if_neg h1]
      by_cases h2 : k = a
      · subst h2
        rw [if_pos rfl, read_place hc.2.2.2]
        by_cases hj : j = k
        · simp [hj]
        · simp [hj, Memory.read, Ne.symm hj]
      · rw [if_neg h2]
        by_cases ha : a = j
        · subst ha
          simp [Memory.read, Ne.symm h2]
        · simp only [Memory.read, if_neg ha]
          exact ih hc.2.2.2

/-- The memory law: what was written is read back there, and every other address reads as before. -/
theorem Memory.read_write {m : Memory} (hm : m.wf = true) (k : Nat) (v : Byte) (j : Nat) :
    (m.write k v).read j = if j = k then v else m.read j :=
  read_write_from hm k v j

theorem Memory.wfFrom_write {m : Memory} {lo k : Nat} (v : Byte) (hm : m.wfFrom lo = true)
    (hlo : lo ≤ k) (hk : k < 4096) : (m.write k v).wfFrom lo = true := by
  induction m generalizing lo with
  | nil => exact wfFrom_place rfl v hlo hk
  | cons c m ih =>
    obtain ⟨a, b⟩ := c
    have hc := wfFrom_cons.mp hm
    simp only [Memory.write]
    by_cases h1 : k < a
    · rw [if_pos h1]
      exact wfFrom_place (wfFrom_cons.mpr ⟨h1, hc.2⟩) v hlo hk
    · rw [if_neg h1]
      by_cases h2 : k = a
      · subst h2
        rw [if_pos rfl]
        exact wfFrom_place hc.2.2.2 v hlo hk
      · rw [if_neg h2]
        exact wfFrom_cons.mpr ⟨hc.1, hc.2.1, hc.2.2.1, ih hc.2.2.2 (by omega)⟩

/-- Every memory operation of the machine is such a write (R67: the address is a cell), so it keeps the
canonical form. -/
theorem Memory.wf_write {m : Memory} {k : Nat} (v : Byte) (hm : m.wf = true) (hk : k < 4096) :
    (m.write k v).wf = true :=
  wfFrom_write v hm (Nat.zero_le k) hk

/-- Memories in canonical form that read the same everywhere are the same data. -/
theorem Memory.ext_of_wfFrom {m m' : Memory} {lo : Nat} (hm : m.wfFrom lo = true)
    (hm' : m'.wfFrom lo = true) (h : ∀ k, m.read k = m'.read k) : m = m' := by
  induction m generalizing m' lo with
  | nil =>
    cases m' with
    | nil => rfl
    | cons c m' =>
      obtain ⟨a, b⟩ := c
      rw [wfFrom_cons] at hm'
      have := h a
      simp [Memory.read] at this
      exact absurd this.symm hm'.2.2.1
  | cons c m ih =>
    obtain ⟨a, b⟩ := c
    cases m' with
    | nil =>
      rw [wfFrom_cons] at hm
      have := h a
      simp [Memory.read] at this
      exact absurd this hm.2.2.1
    | cons c' m' =>
      obtain ⟨a', b'⟩ := c'
      rw [wfFrom_cons] at hm hm'
      have haa : a = a' := by
        rcases Nat.lt_trichotomy a a' with hlt | heq | hgt
        · have := h a
          have hz := read_below (k := a) hm'.2.2.2 (by omega)
          simp [Memory.read, show ¬ a' = a by omega, hz] at this
          exact absurd this hm.2.2.1
        · exact heq
        · have := h a'
          have hz := read_below (k := a') hm.2.2.2 (by omega)
          simp [Memory.read, show ¬ a = a' by omega, hz] at this
          exact absurd this.symm hm'.2.2.1
      subst haa
      have hb : b = b' := by simpa [Memory.read] using h a
      subst hb
      congr 1
      refine ih hm.2.2.2 hm'.2.2.2 fun k => ?_
      by_cases hk : a = k
      · subst hk
        rw [read_below (k := a) hm.2.2.2 (by omega), read_below (k := a) hm'.2.2.2 (by omega)]
      · simpa [Memory.read, hk] using h k

theorem Memory.ext_of_wf {m m' : Memory} (hm : m.wf = true) (hm' : m'.wf = true)
    (h : ∀ k, m.read k = m'.read k) : m = m' :=
  ext_of_wfFrom hm hm' h

/-- A canonical memory holds nothing from address 4096 up. -/
theorem Memory.read_above {m : Memory} {lo k : Nat} (hm : m.wfFrom lo = true) (h : 4096 ≤ k) :
    m.read k = 0#8 := by
  induction m generalizing lo with
  | nil => rfl
  | cons c m ih =>
    obtain ⟨a, b⟩ := c
    rw [wfFrom_cons] at hm
    simp only [Memory.read, if_neg (show a ≠ k by omega)]
    exact ih hm.2.2.2

end Sys2Proof.Machine
end

