-- ==== Sys2Proof/Laws/State.lean ====
section
/-! SUPPORT. One lemma per field and per update of the state, each true by `rfl`, so that no proof unfolds a
record update; then the same for the reads that an update leaves alone. -/

namespace Sys2Proof.Machine

variable (s : State)

/-! ### setReg -/

@[simp] theorem State.setReg_V (r : Reg) (v : Byte) : (s.setReg r v).V = s.V.set r.val v := rfl
@[simp] theorem State.setReg_pc (r : Reg) (v : Byte) : (s.setReg r v).pc = s.pc := rfl
@[simp] theorem State.setReg_I (r : Reg) (v : Byte) : (s.setReg r v).I = s.I := rfl
@[simp] theorem State.setReg_sp (r : Reg) (v : Byte) : (s.setReg r v).sp = s.sp := rfl
@[simp] theorem State.setReg_stack (r : Reg) (v : Byte) : (s.setReg r v).stack = s.stack := rfl
@[simp] theorem State.setReg_DT (r : Reg) (v : Byte) : (s.setReg r v).DT = s.DT := rfl
@[simp] theorem State.setReg_ST (r : Reg) (v : Byte) : (s.setReg r v).ST = s.ST := rfl
@[simp] theorem State.setReg_lastOpcode (r : Reg) (v : Byte) :
    (s.setReg r v).lastOpcode = s.lastOpcode := rfl
@[simp] theorem State.setReg_faulted (r : Reg) (v : Byte) :
    (s.setReg r v).faulted = s.faulted := rfl
@[simp] theorem State.setReg_faultRec (r : Reg) (v : Byte) :
    (s.setReg r v).faultRec = s.faultRec := rfl
@[simp] theorem State.setReg_mem (r : Reg) (v : Byte) : (s.setReg r v).mem = s.mem := rfl
@[simp] theorem State.setReg_fb (r : Reg) (v : Byte) : (s.setReg r v).fb = s.fb := rfl
@[simp] theorem State.setReg_key (r : Reg) (v : Byte) : (s.setReg r v).key = s.key := rfl
@[simp] theorem State.setReg_randDraws (r : Reg) (v : Byte) :
    (s.setReg r v).randDraws = s.randDraws := rfl
@[simp] theorem State.setReg_slot (r : Reg) (v : Byte) (k : Fin 16) :
    (s.setReg r v).slot k = s.slot k := rfl
@[simp] theorem State.setReg_readByte (r : Reg) (v : Byte) (a : Nat) :
    (s.setReg r v).readByte a = s.readByte a := rfl
@[simp] theorem State.setReg_cell (r : Reg) (v : Byte) (r' : Fin 32) (c : Fin 64) :
    (s.setReg r v).cell r' c = s.cell r' c := rfl
@[simp] theorem State.setReg_keyDown (r : Reg) (v : Byte) (k : Fin 16) :
    (s.setReg r v).keyDown k = s.keyDown k := rfl

/-! ### setFlag -/

@[simp] theorem State.setFlag_V (v : Byte) : (s.setFlag v).V = s.V.set 15 v := rfl
@[simp] theorem State.setFlag_pc (v : Byte) : (s.setFlag v).pc = s.pc := rfl
@[simp] theorem State.setFlag_I (v : Byte) : (s.setFlag v).I = s.I := rfl
@[simp] theorem State.setFlag_sp (v : Byte) : (s.setFlag v).sp = s.sp := rfl
@[simp] theorem State.setFlag_stack (v : Byte) : (s.setFlag v).stack = s.stack := rfl
@[simp] theorem State.setFlag_DT (v : Byte) : (s.setFlag v).DT = s.DT := rfl
@[simp] theorem State.setFlag_ST (v : Byte) : (s.setFlag v).ST = s.ST := rfl
@[simp] theorem State.setFlag_lastOpcode (v : Byte) : (s.setFlag v).lastOpcode = s.lastOpcode := rfl
@[simp] theorem State.setFlag_faulted (v : Byte) : (s.setFlag v).faulted = s.faulted := rfl
@[simp] theorem State.setFlag_faultRec (v : Byte) : (s.setFlag v).faultRec = s.faultRec := rfl
@[simp] theorem State.setFlag_mem (v : Byte) : (s.setFlag v).mem = s.mem := rfl
@[simp] theorem State.setFlag_fb (v : Byte) : (s.setFlag v).fb = s.fb := rfl
@[simp] theorem State.setFlag_key (v : Byte) : (s.setFlag v).key = s.key := rfl
@[simp] theorem State.setFlag_randDraws (v : Byte) : (s.setFlag v).randDraws = s.randDraws := rfl
@[simp] theorem State.setFlag_slot (v : Byte) (k : Fin 16) : (s.setFlag v).slot k = s.slot k := rfl
@[simp] theorem State.setFlag_readByte (v : Byte) (a : Nat) :
    (s.setFlag v).readByte a = s.readByte a := rfl
@[simp] theorem State.setFlag_cell (v : Byte) (r : Fin 32) (c : Fin 64) :
    (s.setFlag v).cell r c = s.cell r c := rfl
@[simp] theorem State.setFlag_keyDown (v : Byte) (k : Fin 16) :
    (s.setFlag v).keyDown k = s.keyDown k := rfl

/-! ### setPc -/

@[simp] theorem State.setPc_V (t : Word) : (s.setPc t).V = s.V := rfl
@[simp] theorem State.setPc_pc (t : Word) : (s.setPc t).pc = t := rfl
@[simp] theorem State.setPc_I (t : Word) : (s.setPc t).I = s.I := rfl
@[simp] theorem State.setPc_sp (t : Word) : (s.setPc t).sp = s.sp := rfl
@[simp] theorem State.setPc_stack (t : Word) : (s.setPc t).stack = s.stack := rfl
@[simp] theorem State.setPc_DT (t : Word) : (s.setPc t).DT = s.DT := rfl
@[simp] theorem State.setPc_ST (t : Word) : (s.setPc t).ST = s.ST := rfl
@[simp] theorem State.setPc_lastOpcode (t : Word) : (s.setPc t).lastOpcode = s.lastOpcode := rfl
@[simp] theorem State.setPc_faulted (t : Word) : (s.setPc t).faulted = s.faulted := rfl
@[simp] theorem State.setPc_faultRec (t : Word) : (s.setPc t).faultRec = s.faultRec := rfl
@[simp] theorem State.setPc_mem (t : Word) : (s.setPc t).mem = s.mem := rfl
@[simp] theorem State.setPc_fb (t : Word) : (s.setPc t).fb = s.fb := rfl
@[simp] theorem State.setPc_key (t : Word) : (s.setPc t).key = s.key := rfl
@[simp] theorem State.setPc_randDraws (t : Word) : (s.setPc t).randDraws = s.randDraws := rfl
@[simp] theorem State.setPc_reg (t : Word) (q : Reg) : (s.setPc t).reg q = s.reg q := rfl
@[simp] theorem State.setPc_slot (t : Word) (k : Fin 16) : (s.setPc t).slot k = s.slot k := rfl
@[simp] theorem State.setPc_readByte (t : Word) (a : Nat) :
    (s.setPc t).readByte a = s.readByte a := rfl
@[simp] theorem State.setPc_cell (t : Word) (r : Fin 32) (c : Fin 64) :
    (s.setPc t).cell r c = s.cell r c := rfl
@[simp] theorem State.setPc_keyDown (t : Word) (k : Fin 16) :
    (s.setPc t).keyDown k = s.keyDown k := rfl

/-! ### setIndex -/

@[simp] theorem State.setIndex_V (v : Word) : (s.setIndex v).V = s.V := rfl
@[simp] theorem State.setIndex_pc (v : Word) : (s.setIndex v).pc = s.pc := rfl
@[simp] theorem State.setIndex_I (v : Word) : (s.setIndex v).I = v := rfl
@[simp] theorem State.setIndex_sp (v : Word) : (s.setIndex v).sp = s.sp := rfl
@[simp] theorem State.setIndex_stack (v : Word) : (s.setIndex v).stack = s.stack := rfl
@[simp] theorem State.setIndex_DT (v : Word) : (s.setIndex v).DT = s.DT := rfl
@[simp] theorem State.setIndex_ST (v : Word) : (s.setIndex v).ST = s.ST := rfl
@[simp] theorem State.setIndex_lastOpcode (v : Word) :
    (s.setIndex v).lastOpcode = s.lastOpcode := rfl
@[simp] theorem State.setIndex_faulted (v : Word) : (s.setIndex v).faulted = s.faulted := rfl
@[simp] theorem State.setIndex_faultRec (v : Word) : (s.setIndex v).faultRec = s.faultRec := rfl
@[simp] theorem State.setIndex_mem (v : Word) : (s.setIndex v).mem = s.mem := rfl
@[simp] theorem State.setIndex_fb (v : Word) : (s.setIndex v).fb = s.fb := rfl
@[simp] theorem State.setIndex_key (v : Word) : (s.setIndex v).key = s.key := rfl
@[simp] theorem State.setIndex_randDraws (v : Word) : (s.setIndex v).randDraws = s.randDraws := rfl
@[simp] theorem State.setIndex_reg (v : Word) (q : Reg) : (s.setIndex v).reg q = s.reg q := rfl
@[simp] theorem State.setIndex_slot (v : Word) (k : Fin 16) :
    (s.setIndex v).slot k = s.slot k := rfl
@[simp] theorem State.setIndex_readByte (v : Word) (a : Nat) :
    (s.setIndex v).readByte a = s.readByte a := rfl
@[simp] theorem State.setIndex_cell (v : Word) (r : Fin 32) (c : Fin 64) :
    (s.setIndex v).cell r c = s.cell r c := rfl
@[simp] theorem State.setIndex_keyDown (v : Word) (k : Fin 16) :
    (s.setIndex v).keyDown k = s.keyDown k := rfl

/-! ### setDelay -/

@[simp] theorem State.setDelay_V (v : Byte) : (s.setDelay v).V = s.V := rfl
@[simp] theorem State.setDelay_pc (v : Byte) : (s.setDelay v).pc = s.pc := rfl
@[simp] theorem State.setDelay_I (v : Byte) : (s.setDelay v).I = s.I := rfl
@[simp] theorem State.setDelay_sp (v : Byte) : (s.setDelay v).sp = s.sp := rfl
@[simp] theorem State.setDelay_stack (v : Byte) : (s.setDelay v).stack = s.stack := rfl
@[simp] theorem State.setDelay_DT (v : Byte) : (s.setDelay v).DT = v := rfl
@[simp] theorem State.setDelay_ST (v : Byte) : (s.setDelay v).ST = s.ST := rfl
@[simp] theorem State.setDelay_lastOpcode (v : Byte) :
    (s.setDelay v).lastOpcode = s.lastOpcode := rfl
@[simp] theorem State.setDelay_faulted (v : Byte) : (s.setDelay v).faulted = s.faulted := rfl
@[simp] theorem State.setDelay_faultRec (v : Byte) : (s.setDelay v).faultRec = s.faultRec := rfl
@[simp] theorem State.setDelay_mem (v : Byte) : (s.setDelay v).mem = s.mem := rfl
@[simp] theorem State.setDelay_fb (v : Byte) : (s.setDelay v).fb = s.fb := rfl
@[simp] theorem State.setDelay_key (v : Byte) : (s.setDelay v).key = s.key := rfl
@[simp] theorem State.setDelay_randDraws (v : Byte) : (s.setDelay v).randDraws = s.randDraws := rfl
@[simp] theorem State.setDelay_reg (v : Byte) (q : Reg) : (s.setDelay v).reg q = s.reg q := rfl
@[simp] theorem State.setDelay_slot (v : Byte) (k : Fin 16) :
    (s.setDelay v).slot k = s.slot k := rfl
@[simp] theorem State.setDelay_readByte (v : Byte) (a : Nat) :
    (s.setDelay v).readByte a = s.readByte a := rfl
@[simp] theorem State.setDelay_cell (v : Byte) (r : Fin 32) (c : Fin 64) :
    (s.setDelay v).cell r c = s.cell r c := rfl
@[simp] theorem State.setDelay_keyDown (v : Byte) (k : Fin 16) :
    (s.setDelay v).keyDown k = s.keyDown k := rfl

/-! ### setSound -/

@[simp] theorem State.setSound_V (v : Byte) : (s.setSound v).V = s.V := rfl
@[simp] theorem State.setSound_pc (v : Byte) : (s.setSound v).pc = s.pc := rfl
@[simp] theorem State.setSound_I (v : Byte) : (s.setSound v).I = s.I := rfl
@[simp] theorem State.setSound_sp (v : Byte) : (s.setSound v).sp = s.sp := rfl
@[simp] theorem State.setSound_stack (v : Byte) : (s.setSound v).stack = s.stack := rfl
@[simp] theorem State.setSound_DT (v : Byte) : (s.setSound v).DT = s.DT := rfl
@[simp] theorem State.setSound_ST (v : Byte) : (s.setSound v).ST = v := rfl
@[simp] theorem State.setSound_lastOpcode (v : Byte) :
    (s.setSound v).lastOpcode = s.lastOpcode := rfl
@[simp] theorem State.setSound_faulted (v : Byte) : (s.setSound v).faulted = s.faulted := rfl
@[simp] theorem State.setSound_faultRec (v : Byte) : (s.setSound v).faultRec = s.faultRec := rfl
@[simp] theorem State.setSound_mem (v : Byte) : (s.setSound v).mem = s.mem := rfl
@[simp] theorem State.setSound_fb (v : Byte) : (s.setSound v).fb = s.fb := rfl
@[simp] theorem State.setSound_key (v : Byte) : (s.setSound v).key = s.key := rfl
@[simp] theorem State.setSound_randDraws (v : Byte) : (s.setSound v).randDraws = s.randDraws := rfl
@[simp] theorem State.setSound_reg (v : Byte) (q : Reg) : (s.setSound v).reg q = s.reg q := rfl
@[simp] theorem State.setSound_slot (v : Byte) (k : Fin 16) :
    (s.setSound v).slot k = s.slot k := rfl
@[simp] theorem State.setSound_readByte (v : Byte) (a : Nat) :
    (s.setSound v).readByte a = s.readByte a := rfl
@[simp] theorem State.setSound_cell (v : Byte) (r : Fin 32) (c : Fin 64) :
    (s.setSound v).cell r c = s.cell r c := rfl
@[simp] theorem State.setSound_keyDown (v : Byte) (k : Fin 16) :
    (s.setSound v).keyDown k = s.keyDown k := rfl

/-! ### push -/

@[simp] theorem State.push_V (w : Word) (h : s.sp.val < 16) : (s.push w h).V = s.V := rfl
@[simp] theorem State.push_pc (w : Word) (h : s.sp.val < 16) : (s.push w h).pc = s.pc := rfl
@[simp] theorem State.push_I (w : Word) (h : s.sp.val < 16) : (s.push w h).I = s.I := rfl
@[simp] theorem State.push_sp (w : Word) (h : s.sp.val < 16) :
    (s.push w h).sp = ⟨s.sp.val + 1, by omega⟩ := rfl
@[simp] theorem State.push_stack (w : Word) (h : s.sp.val < 16) :
    (s.push w h).stack = s.stack.set s.sp.val w := rfl
@[simp] theorem State.push_DT (w : Word) (h : s.sp.val < 16) : (s.push w h).DT = s.DT := rfl
@[simp] theorem State.push_ST (w : Word) (h : s.sp.val < 16) : (s.push w h).ST = s.ST := rfl
@[simp] theorem State.push_lastOpcode (w : Word) (h : s.sp.val < 16) :
    (s.push w h).lastOpcode = s.lastOpcode := rfl
@[simp] theorem State.push_faulted (w : Word) (h : s.sp.val < 16) :
    (s.push w h).faulted = s.faulted := rfl
@[simp] theorem State.push_faultRec (w : Word) (h : s.sp.val < 16) :
    (s.push w h).faultRec = s.faultRec := rfl
@[simp] theorem State.push_mem (w : Word) (h : s.sp.val < 16) : (s.push w h).mem = s.mem := rfl
@[simp] theorem State.push_fb (w : Word) (h : s.sp.val < 16) : (s.push w h).fb = s.fb := rfl
@[simp] theorem State.push_key (w : Word) (h : s.sp.val < 16) : (s.push w h).key = s.key := rfl
@[simp] theorem State.push_randDraws (w : Word) (h : s.sp.val < 16) :
    (s.push w h).randDraws = s.randDraws := rfl
@[simp] theorem State.push_reg (w : Word) (h : s.sp.val < 16) (q : Reg) :
    (s.push w h).reg q = s.reg q := rfl
@[simp] theorem State.push_readByte (w : Word) (h : s.sp.val < 16) (a : Nat) :
    (s.push w h).readByte a = s.readByte a := rfl
@[simp] theorem State.push_cell (w : Word) (h : s.sp.val < 16) (r : Fin 32) (c : Fin 64) :
    (s.push w h).cell r c = s.cell r c := rfl
@[simp] theorem State.push_keyDown (w : Word) (h : s.sp.val < 16) (k : Fin 16) :
    (s.push w h).keyDown k = s.keyDown k := rfl

/-! ### popPc -/

@[simp] theorem State.popPc_V (h : 0 < s.sp.val) : (s.popPc h).V = s.V := rfl
@[simp] theorem State.popPc_pc (h : 0 < s.sp.val) :
    (s.popPc h).pc = s.slot ⟨s.sp.val - 1, by omega⟩ := rfl
@[simp] theorem State.popPc_I (h : 0 < s.sp.val) : (s.popPc h).I = s.I := rfl
@[simp] theorem State.popPc_sp (h : 0 < s.sp.val) : (s.popPc h).sp = ⟨s.sp.val - 1, by omega⟩ := rfl
@[simp] theorem State.popPc_stack (h : 0 < s.sp.val) : (s.popPc h).stack = s.stack := rfl
@[simp] theorem State.popPc_DT (h : 0 < s.sp.val) : (s.popPc h).DT = s.DT := rfl
@[simp] theorem State.popPc_ST (h : 0 < s.sp.val) : (s.popPc h).ST = s.ST := rfl
@[simp] theorem State.popPc_lastOpcode (h : 0 < s.sp.val) :
    (s.popPc h).lastOpcode = s.lastOpcode := rfl
@[simp] theorem State.popPc_faulted (h : 0 < s.sp.val) : (s.popPc h).faulted = s.faulted := rfl
@[simp] theorem State.popPc_faultRec (h : 0 < s.sp.val) : (s.popPc h).faultRec = s.faultRec := rfl
@[simp] theorem State.popPc_mem (h : 0 < s.sp.val) : (s.popPc h).mem = s.mem := rfl
@[simp] theorem State.popPc_fb (h : 0 < s.sp.val) : (s.popPc h).fb = s.fb := rfl
@[simp] theorem State.popPc_key (h : 0 < s.sp.val) : (s.popPc h).key = s.key := rfl
@[simp] theorem State.popPc_randDraws (h : 0 < s.sp.val) :
    (s.popPc h).randDraws = s.randDraws := rfl
@[simp] theorem State.popPc_reg (h : 0 < s.sp.val) (q : Reg) : (s.popPc h).reg q = s.reg q := rfl
@[simp] theorem State.popPc_slot (h : 0 < s.sp.val) (k : Fin 16) :
    (s.popPc h).slot k = s.slot k := rfl
@[simp] theorem State.popPc_readByte (h : 0 < s.sp.val) (a : Nat) :
    (s.popPc h).readByte a = s.readByte a := rfl
@[simp] theorem State.popPc_cell (h : 0 < s.sp.val) (r : Fin 32) (c : Fin 64) :
    (s.popPc h).cell r c = s.cell r c := rfl
@[simp] theorem State.popPc_keyDown (h : 0 < s.sp.val) (k : Fin 16) :
    (s.popPc h).keyDown k = s.keyDown k := rfl

/-! ### writeByte -/

@[simp] theorem State.writeByte_V (a : Nat) (v : Byte) : (s.writeByte a v).V = s.V := rfl
@[simp] theorem State.writeByte_pc (a : Nat) (v : Byte) : (s.writeByte a v).pc = s.pc := rfl
@[simp] theorem State.writeByte_I (a : Nat) (v : Byte) : (s.writeByte a v).I = s.I := rfl
@[simp] theorem State.writeByte_sp (a : Nat) (v : Byte) : (s.writeByte a v).sp = s.sp := rfl
@[simp] theorem State.writeByte_stack (a : Nat) (v : Byte) :
    (s.writeByte a v).stack = s.stack := rfl
@[simp] theorem State.writeByte_DT (a : Nat) (v : Byte) : (s.writeByte a v).DT = s.DT := rfl
@[simp] theorem State.writeByte_ST (a : Nat) (v : Byte) : (s.writeByte a v).ST = s.ST := rfl
@[simp] theorem State.writeByte_lastOpcode (a : Nat) (v : Byte) :
    (s.writeByte a v).lastOpcode = s.lastOpcode := rfl
@[simp] theorem State.writeByte_faulted (a : Nat) (v : Byte) :
    (s.writeByte a v).faulted = s.faulted := rfl
@[simp] theorem State.writeByte_faultRec (a : Nat) (v : Byte) :
    (s.writeByte a v).faultRec = s.faultRec := rfl
@[simp] theorem State.writeByte_mem (a : Nat) (v : Byte) :
    (s.writeByte a v).mem = s.mem.write a v := rfl
@[simp] theorem State.writeByte_fb (a : Nat) (v : Byte) : (s.writeByte a v).fb = s.fb := rfl
@[simp] theorem State.writeByte_key (a : Nat) (v : Byte) : (s.writeByte a v).key = s.key := rfl
@[simp] theorem State.writeByte_randDraws (a : Nat) (v : Byte) :
    (s.writeByte a v).randDraws = s.randDraws := rfl
@[simp] theorem State.writeByte_reg (a : Nat) (v : Byte) (q : Reg) :
    (s.writeByte a v).reg q = s.reg q := rfl
@[simp] theorem State.writeByte_slot (a : Nat) (v : Byte) (k : Fin 16) :
    (s.writeByte a v).slot k = s.slot k := rfl
@[simp] theorem State.writeByte_cell (a : Nat) (v : Byte) (r : Fin 32) (c : Fin 64) :
    (s.writeByte a v).cell r c = s.cell r c := rfl
@[simp] theorem State.writeByte_keyDown (a : Nat) (v : Byte) (k : Fin 16) :
    (s.writeByte a v).keyDown k = s.keyDown k := rfl

/-! ### setCell -/

@[simp] theorem State.setCell_V (r : Fin 32) (c : Fin 64) (b : Bool) :
    (s.setCell r c b).V = s.V := rfl
@[simp] theorem State.setCell_pc (r : Fin 32) (c : Fin 64) (b : Bool) :
    (s.setCell r c b).pc = s.pc := rfl
@[simp] theorem State.setCell_I (r : Fin 32) (c : Fin 64) (b : Bool) :
    (s.setCell r c b).I = s.I := rfl
@[simp] theorem State.setCell_sp (r : Fin 32) (c : Fin 64) (b : Bool) :
    (s.setCell r c b).sp = s.sp := rfl
@[simp] theorem State.setCell_stack (r : Fin 32) (c : Fin 64) (b : Bool) :
    (s.setCell r c b).stack = s.stack := rfl
@[simp] theorem State.setCell_DT (r : Fin 32) (c : Fin 64) (b : Bool) :
    (s.setCell r c b).DT = s.DT := rfl
@[simp] theorem State.setCell_ST (r : Fin 32) (c : Fin 64) (b : Bool) :
    (s.setCell r c b).ST = s.ST := rfl
@[simp] theorem State.setCell_lastOpcode (r : Fin 32) (c : Fin 64) (b : Bool) :
    (s.setCell r c b).lastOpcode = s.lastOpcode := rfl
@[simp] theorem State.setCell_faulted (r : Fin 32) (c : Fin 64) (b : Bool) :
    (s.setCell r c b).faulted = s.faulted := rfl
@[simp] theorem State.setCell_faultRec (r : Fin 32) (c : Fin 64) (b : Bool) :
    (s.setCell r c b).faultRec = s.faultRec := rfl
@[simp] theorem State.setCell_mem (r : Fin 32) (c : Fin 64) (b : Bool) :
    (s.setCell r c b).mem = s.mem := rfl
@[simp] theorem State.setCell_fb (r : Fin 32) (c : Fin 64) (b : Bool) :
    (s.setCell r c b).fb = s.fb.set r.val (s.fb[r.val].set c.val b) := rfl
@[simp] theorem State.setCell_key (r : Fin 32) (c : Fin 64) (b : Bool) :
    (s.setCell r c b).key = s.key := rfl
@[simp] theorem State.setCell_randDraws (r : Fin 32) (c : Fin 64) (b : Bool) :
    (s.setCell r c b).randDraws = s.randDraws := rfl
@[simp] theorem State.setCell_reg (r : Fin 32) (c : Fin 64) (b : Bool) (q : Reg) :
    (s.setCell r c b).reg q = s.reg q := rfl
@[simp] theorem State.setCell_slot (r : Fin 32) (c : Fin 64) (b : Bool) (k : Fin 16) :
    (s.setCell r c b).slot k = s.slot k := rfl
@[simp] theorem State.setCell_readByte (r : Fin 32) (c : Fin 64) (b : Bool) (a : Nat) :
    (s.setCell r c b).readByte a = s.readByte a := rfl
@[simp] theorem State.setCell_keyDown (r : Fin 32) (c : Fin 64) (b : Bool) (k : Fin 16) :
    (s.setCell r c b).keyDown k = s.keyDown k := rfl

/-! ### clearCells -/

@[simp] theorem State.clearCells_V : (s.clearCells).V = s.V := rfl
@[simp] theorem State.clearCells_pc : (s.clearCells).pc = s.pc := rfl
@[simp] theorem State.clearCells_I : (s.clearCells).I = s.I := rfl
@[simp] theorem State.clearCells_sp : (s.clearCells).sp = s.sp := rfl
@[simp] theorem State.clearCells_stack : (s.clearCells).stack = s.stack := rfl
@[simp] theorem State.clearCells_DT : (s.clearCells).DT = s.DT := rfl
@[simp] theorem State.clearCells_ST : (s.clearCells).ST = s.ST := rfl
@[simp] theorem State.clearCells_lastOpcode : (s.clearCells).lastOpcode = s.lastOpcode := rfl
@[simp] theorem State.clearCells_faulted : (s.clearCells).faulted = s.faulted := rfl
@[simp] theorem State.clearCells_faultRec : (s.clearCells).faultRec = s.faultRec := rfl
@[simp] theorem State.clearCells_mem : (s.clearCells).mem = s.mem := rfl
@[simp] theorem State.clearCells_fb :
    (s.clearCells).fb = Vector.replicate 32 (Vector.replicate 64 false) := rfl
@[simp] theorem State.clearCells_key : (s.clearCells).key = s.key := rfl
@[simp] theorem State.clearCells_randDraws : (s.clearCells).randDraws = s.randDraws := rfl
@[simp] theorem State.clearCells_reg (q : Reg) : (s.clearCells).reg q = s.reg q := rfl
@[simp] theorem State.clearCells_slot (k : Fin 16) : (s.clearCells).slot k = s.slot k := rfl
@[simp] theorem State.clearCells_readByte (a : Nat) :
    (s.clearCells).readByte a = s.readByte a := rfl
@[simp] theorem State.clearCells_keyDown (k : Fin 16) :
    (s.clearCells).keyDown k = s.keyDown k := rfl

/-! ### consumeRandom -/

@[simp] theorem State.consumeRandom_V : (s.consumeRandom).V = s.V := rfl
@[simp] theorem State.consumeRandom_pc : (s.consumeRandom).pc = s.pc := rfl
@[simp] theorem State.consumeRandom_I : (s.consumeRandom).I = s.I := rfl
@[simp] theorem State.consumeRandom_sp : (s.consumeRandom).sp = s.sp := rfl
@[simp] theorem State.consumeRandom_stack : (s.consumeRandom).stack = s.stack := rfl
@[simp] theorem State.consumeRandom_DT : (s.consumeRandom).DT = s.DT := rfl
@[simp] theorem State.consumeRandom_ST : (s.consumeRandom).ST = s.ST := rfl
@[simp] theorem State.consumeRandom_lastOpcode : (s.consumeRandom).lastOpcode = s.lastOpcode := rfl
@[simp] theorem State.consumeRandom_faulted : (s.consumeRandom).faulted = s.faulted := rfl
@[simp] theorem State.consumeRandom_faultRec : (s.consumeRandom).faultRec = s.faultRec := rfl
@[simp] theorem State.consumeRandom_mem : (s.consumeRandom).mem = s.mem := rfl
@[simp] theorem State.consumeRandom_fb : (s.consumeRandom).fb = s.fb := rfl
@[simp] theorem State.consumeRandom_key : (s.consumeRandom).key = s.key := rfl
@[simp] theorem State.consumeRandom_randDraws : (s.consumeRandom).randDraws = s.randDraws + 1 := rfl
@[simp] theorem State.consumeRandom_reg (q : Reg) : (s.consumeRandom).reg q = s.reg q := rfl
@[simp] theorem State.consumeRandom_slot (k : Fin 16) : (s.consumeRandom).slot k = s.slot k := rfl
@[simp] theorem State.consumeRandom_readByte (a : Nat) :
    (s.consumeRandom).readByte a = s.readByte a := rfl
@[simp] theorem State.consumeRandom_cell (r : Fin 32) (c : Fin 64) :
    (s.consumeRandom).cell r c = s.cell r c := rfl
@[simp] theorem State.consumeRandom_keyDown (k : Fin 16) :
    (s.consumeRandom).keyDown k = s.keyDown k := rfl

/-! ### raise -/

@[simp] theorem State.raise_V (k : FatalKind) : (s.raise k).V = s.V := rfl
@[simp] theorem State.raise_pc (k : FatalKind) : (s.raise k).pc = s.pc := rfl
@[simp] theorem State.raise_I (k : FatalKind) : (s.raise k).I = s.I := rfl
@[simp] theorem State.raise_sp (k : FatalKind) : (s.raise k).sp = s.sp := rfl
@[simp] theorem State.raise_stack (k : FatalKind) : (s.raise k).stack = s.stack := rfl
@[simp] theorem State.raise_DT (k : FatalKind) : (s.raise k).DT = s.DT := rfl
@[simp] theorem State.raise_ST (k : FatalKind) : (s.raise k).ST = s.ST := rfl
@[simp] theorem State.raise_lastOpcode (k : FatalKind) :
    (s.raise k).lastOpcode = s.lastOpcode := rfl
@[simp] theorem State.raise_faulted (k : FatalKind) : (s.raise k).faulted = true := rfl
@[simp] theorem State.raise_faultRec (k : FatalKind) :
    (s.raise k).faultRec = some ⟨k, s.lastOpcode, s.pc⟩ := rfl
@[simp] theorem State.raise_mem (k : FatalKind) : (s.raise k).mem = s.mem := rfl
@[simp] theorem State.raise_fb (k : FatalKind) : (s.raise k).fb = s.fb := rfl
@[simp] theorem State.raise_key (k : FatalKind) : (s.raise k).key = s.key := rfl
@[simp] theorem State.raise_randDraws (k : FatalKind) : (s.raise k).randDraws = s.randDraws := rfl
@[simp] theorem State.raise_reg (k : FatalKind) (q : Reg) : (s.raise k).reg q = s.reg q := rfl
@[simp] theorem State.raise_slot (k : FatalKind) (k' : Fin 16) :
    (s.raise k).slot k' = s.slot k' := rfl
@[simp] theorem State.raise_readByte (k : FatalKind) (a : Nat) :
    (s.raise k).readByte a = s.readByte a := rfl
@[simp] theorem State.raise_cell (k : FatalKind) (r : Fin 32) (c : Fin 64) :
    (s.raise k).cell r c = s.cell r c := rfl
@[simp] theorem State.raise_keyDown (k : FatalKind) (k' : Fin 16) :
    (s.raise k).keyDown k' = s.keyDown k' := rfl

/-! ### raiseMem -/

@[simp] theorem State.raiseMem_V (a : Nat) : (s.raiseMem a).V = s.V := rfl
@[simp] theorem State.raiseMem_pc (a : Nat) : (s.raiseMem a).pc = s.pc := rfl
@[simp] theorem State.raiseMem_I (a : Nat) : (s.raiseMem a).I = s.I := rfl
@[simp] theorem State.raiseMem_sp (a : Nat) : (s.raiseMem a).sp = s.sp := rfl
@[simp] theorem State.raiseMem_stack (a : Nat) : (s.raiseMem a).stack = s.stack := rfl
@[simp] theorem State.raiseMem_DT (a : Nat) : (s.raiseMem a).DT = s.DT := rfl
@[simp] theorem State.raiseMem_ST (a : Nat) : (s.raiseMem a).ST = s.ST := rfl
@[simp] theorem State.raiseMem_lastOpcode (a : Nat) :
    (s.raiseMem a).lastOpcode = s.lastOpcode := rfl
@[simp] theorem State.raiseMem_faulted (a : Nat) : (s.raiseMem a).faulted = true := rfl
@[simp] theorem State.raiseMem_faultRec (a : Nat) :
    (s.raiseMem a).faultRec = some ⟨.boundsViolation .mem (max a 4096), s.lastOpcode, s.pc⟩ := rfl
@[simp] theorem State.raiseMem_mem (a : Nat) : (s.raiseMem a).mem = s.mem := rfl
@[simp] theorem State.raiseMem_fb (a : Nat) : (s.raiseMem a).fb = s.fb := rfl
@[simp] theorem State.raiseMem_key (a : Nat) : (s.raiseMem a).key = s.key := rfl
@[simp] theorem State.raiseMem_randDraws (a : Nat) : (s.raiseMem a).randDraws = s.randDraws := rfl
@[simp] theorem State.raiseMem_reg (a : Nat) (q : Reg) : (s.raiseMem a).reg q = s.reg q := rfl
@[simp] theorem State.raiseMem_slot (a : Nat) (k : Fin 16) : (s.raiseMem a).slot k = s.slot k := rfl
@[simp] theorem State.raiseMem_readByte (a : Nat) (a' : Nat) :
    (s.raiseMem a).readByte a' = s.readByte a' := rfl
@[simp] theorem State.raiseMem_cell (a : Nat) (r : Fin 32) (c : Fin 64) :
    (s.raiseMem a).cell r c = s.cell r c := rfl
@[simp] theorem State.raiseMem_keyDown (a : Nat) (k : Fin 16) :
    (s.raiseMem a).keyDown k = s.keyDown k := rfl

/-! ### latchOpcode -/

@[simp] theorem State.latchOpcode_V (w : Word) : (s.latchOpcode w).V = s.V := rfl
@[simp] theorem State.latchOpcode_pc (w : Word) : (s.latchOpcode w).pc = s.pc := rfl
@[simp] theorem State.latchOpcode_I (w : Word) : (s.latchOpcode w).I = s.I := rfl
@[simp] theorem State.latchOpcode_sp (w : Word) : (s.latchOpcode w).sp = s.sp := rfl
@[simp] theorem State.latchOpcode_stack (w : Word) : (s.latchOpcode w).stack = s.stack := rfl
@[simp] theorem State.latchOpcode_DT (w : Word) : (s.latchOpcode w).DT = s.DT := rfl
@[simp] theorem State.latchOpcode_ST (w : Word) : (s.latchOpcode w).ST = s.ST := rfl
@[simp] theorem State.latchOpcode_lastOpcode (w : Word) : (s.latchOpcode w).lastOpcode = w := rfl
@[simp] theorem State.latchOpcode_faulted (w : Word) : (s.latchOpcode w).faulted = s.faulted := rfl
@[simp] theorem State.latchOpcode_faultRec (w : Word) :
    (s.latchOpcode w).faultRec = s.faultRec := rfl
@[simp] theorem State.latchOpcode_mem (w : Word) : (s.latchOpcode w).mem = s.mem := rfl
@[simp] theorem State.latchOpcode_fb (w : Word) : (s.latchOpcode w).fb = s.fb := rfl
@[simp] theorem State.latchOpcode_key (w : Word) : (s.latchOpcode w).key = s.key := rfl
@[simp] theorem State.latchOpcode_randDraws (w : Word) :
    (s.latchOpcode w).randDraws = s.randDraws := rfl
@[simp] theorem State.latchOpcode_reg (w : Word) (q : Reg) :
    (s.latchOpcode w).reg q = s.reg q := rfl
@[simp] theorem State.latchOpcode_slot (w : Word) (k : Fin 16) :
    (s.latchOpcode w).slot k = s.slot k := rfl
@[simp] theorem State.latchOpcode_readByte (w : Word) (a : Nat) :
    (s.latchOpcode w).readByte a = s.readByte a := rfl
@[simp] theorem State.latchOpcode_cell (w : Word) (r : Fin 32) (c : Fin 64) :
    (s.latchOpcode w).cell r c = s.cell r c := rfl
@[simp] theorem State.latchOpcode_keyDown (w : Word) (k : Fin 16) :
    (s.latchOpcode w).keyDown k = s.keyDown k := rfl

/-! ### advance -/

@[simp] theorem State.advance_V : (s.advance).V = s.V := rfl
@[simp] theorem State.advance_pc : (s.advance).pc = s.pc + 2#16 := rfl
@[simp] theorem State.advance_I : (s.advance).I = s.I := rfl
@[simp] theorem State.advance_sp : (s.advance).sp = s.sp := rfl
@[simp] theorem State.advance_stack : (s.advance).stack = s.stack := rfl
@[simp] theorem State.advance_DT : (s.advance).DT = s.DT := rfl
@[simp] theorem State.advance_ST : (s.advance).ST = s.ST := rfl
@[simp] theorem State.advance_lastOpcode : (s.advance).lastOpcode = s.lastOpcode := rfl
@[simp] theorem State.advance_faulted : (s.advance).faulted = s.faulted := rfl
@[simp] theorem State.advance_faultRec : (s.advance).faultRec = s.faultRec := rfl
@[simp] theorem State.advance_mem : (s.advance).mem = s.mem := rfl
@[simp] theorem State.advance_fb : (s.advance).fb = s.fb := rfl
@[simp] theorem State.advance_key : (s.advance).key = s.key := rfl
@[simp] theorem State.advance_randDraws : (s.advance).randDraws = s.randDraws := rfl
@[simp] theorem State.advance_reg (q : Reg) : (s.advance).reg q = s.reg q := rfl
@[simp] theorem State.advance_slot (k : Fin 16) : (s.advance).slot k = s.slot k := rfl
@[simp] theorem State.advance_readByte (a : Nat) : (s.advance).readByte a = s.readByte a := rfl
@[simp] theorem State.advance_cell (r : Fin 32) (c : Fin 64) :
    (s.advance).cell r c = s.cell r c := rfl
@[simp] theorem State.advance_keyDown (k : Fin 16) : (s.advance).keyDown k = s.keyDown k := rfl

/-! ### clearLatch -/

@[simp] theorem State.clearLatch_V : (s.clearLatch).V = s.V := rfl
@[simp] theorem State.clearLatch_pc : (s.clearLatch).pc = s.pc := rfl
@[simp] theorem State.clearLatch_I : (s.clearLatch).I = s.I := rfl
@[simp] theorem State.clearLatch_sp : (s.clearLatch).sp = s.sp := rfl
@[simp] theorem State.clearLatch_stack : (s.clearLatch).stack = s.stack := rfl
@[simp] theorem State.clearLatch_DT : (s.clearLatch).DT = s.DT := rfl
@[simp] theorem State.clearLatch_ST : (s.clearLatch).ST = s.ST := rfl
@[simp] theorem State.clearLatch_lastOpcode : (s.clearLatch).lastOpcode = s.lastOpcode := rfl
@[simp] theorem State.clearLatch_faulted : (s.clearLatch).faulted = false := rfl
@[simp] theorem State.clearLatch_faultRec : (s.clearLatch).faultRec = none := rfl
@[simp] theorem State.clearLatch_mem : (s.clearLatch).mem = s.mem := rfl
@[simp] theorem State.clearLatch_fb : (s.clearLatch).fb = s.fb := rfl
@[simp] theorem State.clearLatch_key : (s.clearLatch).key = s.key := rfl
@[simp] theorem State.clearLatch_randDraws : (s.clearLatch).randDraws = s.randDraws := rfl
@[simp] theorem State.clearLatch_reg (q : Reg) : (s.clearLatch).reg q = s.reg q := rfl
@[simp] theorem State.clearLatch_slot (k : Fin 16) : (s.clearLatch).slot k = s.slot k := rfl
@[simp] theorem State.clearLatch_readByte (a : Nat) :
    (s.clearLatch).readByte a = s.readByte a := rfl
@[simp] theorem State.clearLatch_cell (r : Fin 32) (c : Fin 64) :
    (s.clearLatch).cell r c = s.cell r c := rfl
@[simp] theorem State.clearLatch_keyDown (k : Fin 16) :
    (s.clearLatch).keyDown k = s.keyDown k := rfl

end Sys2Proof.Machine
end

