-- ==== Sys2Proof/Laws/Ops.lean ====
section
/-! SUPPORT. What each shared operation does, said once: the reads after a write, the block transfers, the
drawing of a sprite, the key scan and the timers' step. -/

namespace Sys2Proof.Machine

variable (s : State)

/-! ### Reads after writes -/

@[simp] theorem State.reg_setReg (r q : Reg) (v : Byte) :
    (s.setReg r v).reg q = if q = r then v else s.reg q := by
  simp only [reg, setReg, Vector.getElem_set, Fin.ext_iff, eq_comm]

@[simp] theorem State.reg_setFlag (q : Reg) (v : Byte) :
    (s.setFlag v).reg q = if q = flagReg then v else s.reg q :=
  s.reg_setReg flagReg q v

@[simp] theorem State.cell_setCell (r r' : Fin 32) (c c' : Fin 64) (b : Bool) :
    (s.setCell r c b).cell r' c' = if r' = r ∧ c' = c then b else s.cell r' c' := by
  simp only [cell, setCell, Vector.getElem_set, Fin.ext_iff]
  by_cases hr : r.val = r'.val
  · by_cases hc : c.val = c'.val <;> simp [hr, hc, eq_comm]
  · simp [hr, Ne.symm hr]

@[simp] theorem State.cell_clearCells (r : Fin 32) (c : Fin 64) : s.clearCells.cell r c = false := by
  simp [cell, clearCells]

@[simp] theorem State.slot_push (w : Word) (h : s.sp.val < 16) (k : Fin 16) :
    (s.push w h).slot k = if k.val = s.sp.val then w else s.slot k := by
  simp only [slot, push, Vector.getElem_set, eq_comm]

/-- A read after a write, in a state whose memory is canonical. -/
theorem State.readByte_writeByte (hs : s.mem.wf = true) (a : Nat) (v : Byte) (j : Nat) :
    (s.writeByte a v).readByte j = if j = a then v else s.readByte j :=
  Memory.read_write hs a v j

theorem State.wf_writeByte (hs : s.mem.wf = true) {a : Nat} (v : Byte) (ha : a < 4096) :
    (s.writeByte a v).mem.wf = true :=
  Memory.wf_write v hs ha

theorem memInBounds_iff (a n : Nat) : memInBounds a n = true ↔ n = 0 ∨ a + n ≤ 4096 := by
  simp [memInBounds]

/-! ### Block transfers -/

theorem State.storeRegs_succ (n : Nat) :
    s.storeRegs (n + 1) = (s.storeRegs n).writeByte ((s.storeRegs n).I.toNat + n)
      ((s.storeRegs n).reg (Fin.ofNat 16 n)) := by
  simp [storeRegs, List.range_succ]

theorem State.loadRegs_succ (n : Nat) :
    s.loadRegs (n + 1) = (s.loadRegs n).setReg (Fin.ofNat 16 n)
      ((s.loadRegs n).readByte ((s.loadRegs n).I.toNat + n)) := by
  simp [loadRegs, List.range_succ]

/-- A block store changes nothing but memory. -/
theorem State.storeRegs_eq (n : Nat) : s.storeRegs n = { s with mem := (s.storeRegs n).mem } := by
  induction n with
  | zero => rfl
  | succ n ih => rw [storeRegs_succ, ih]; rfl

/-- A block load changes nothing but the registers. -/
theorem State.loadRegs_eq (n : Nat) : s.loadRegs n = { s with V := (s.loadRegs n).V } := by
  induction n with
  | zero => rfl
  | succ n ih => rw [loadRegs_succ, ih]; rfl

theorem State.storeRegs_I (n : Nat) : (s.storeRegs n).I = s.I := by rw [storeRegs_eq]

theorem State.storeRegs_reg (n : Nat) (q : Reg) : (s.storeRegs n).reg q = s.reg q := by
  rw [storeRegs_eq]; rfl

theorem State.loadRegs_I (n : Nat) : (s.loadRegs n).I = s.I := by rw [loadRegs_eq]

theorem State.loadRegs_readByte (n a : Nat) : (s.loadRegs n).readByte a = s.readByte a := by
  rw [loadRegs_eq]; rfl

theorem State.wf_storeRegs (hs : s.mem.wf = true) {n : Nat} (hn : s.I.toNat + n ≤ 4096) :
    (s.storeRegs n).mem.wf = true := by
  induction n with
  | zero => exact hs
  | succ n ih =>
    rw [storeRegs_succ]
    exact wf_writeByte _ (ih (by omega)) _ (by rw [storeRegs_I]; omega)

/-- What memory reads after a block store of `n` registers. -/
theorem State.readByte_storeRegs (hs : s.mem.wf = true) {n : Nat} (hn : s.I.toNat + n ≤ 4096)
    (j : Nat) : (s.storeRegs n).readByte j =
      if s.I.toNat ≤ j ∧ j < s.I.toNat + n then s.reg (Fin.ofNat 16 (j - s.I.toNat))
      else s.readByte j := by
  induction n with
  | zero => simp [storeRegs]
  | succ n ih =>
    rw [storeRegs_succ, readByte_writeByte _ (wf_storeRegs s hs (by omega)), ih (by omega),
      storeRegs_I, storeRegs_reg]
    by_cases hj : j = s.I.toNat + n
    · subst hj; simp
    · rw [if_neg hj]
      by_cases h : s.I.toNat ≤ j ∧ j < s.I.toNat + n
      · rw [if_pos h, if_pos ⟨h.1, by omega⟩]
      · rw [if_neg h, if_neg (by omega)]

/-- What the registers hold after a block load of `n` registers. -/
theorem State.reg_loadRegs {n : Nat} (hn : n ≤ 16) (q : Reg) : (s.loadRegs n).reg q =
    if q.val < n then s.readByte (s.I.toNat + q.val) else s.reg q := by
  induction n with
  | zero => simp [loadRegs]
  | succ n ih =>
    have hq : q = Fin.ofNat 16 n ↔ q.val = n := by
      simp [Fin.ext_iff, Fin.ofNat, Nat.mod_eq_of_lt (show n < 16 by omega)]
    rw [loadRegs_succ, reg_setReg, ih (by omega), loadRegs_I, loadRegs_readByte]
    by_cases h : q.val = n
    · rw [if_pos (hq.mpr h), if_pos (by omega), h]
    · rw [if_neg (mt hq.mp h)]
      by_cases h2 : q.val < n
      · rw [if_pos h2, if_pos (by omega)]
      · rw [if_neg h2, if_neg (by omega)]

/-! ### Sprites -/

theorem State.drawRow_eq_foldl (vx vy b : Byte) (row n : Nat) :
    (List.range (n + 1)).foldl (fun t col => State.drawPixel t vx vy b row col) s =
      ((List.range n).foldl (fun t col => State.drawPixel t vx vy b row col) s).drawPixel
        vx vy b row n := by
  simp [List.range_succ]

theorem State.drawSprite_succ (vx vy : Byte) (n : Nat) :
    s.drawSprite vx vy (n + 1) = (s.drawSprite vx vy n).drawRow vx vy
      ((s.drawSprite vx vy n).readByte ((s.drawSprite vx vy n).I.toNat + n)) n := by
  simp [drawSprite, List.range_succ]

/-- A pixel changes nothing but the registers and the framebuffer. -/
theorem State.drawPixel_eq (vx vy b : Byte) (row col : Nat) :
    s.drawPixel vx vy b row col = { s with
      V := (s.drawPixel vx vy b row col).V, fb := (s.drawPixel vx vy b row col).fb } := by
  unfold drawPixel
  split
  · unfold xorCell; split <;> rfl
  · rfl

theorem State.drawRow_eq (vx vy b : Byte) (row : Nat) :
    s.drawRow vx vy b row = { s with
      V := (s.drawRow vx vy b row).V, fb := (s.drawRow vx vy b row).fb } := by
  unfold drawRow
  generalize 8 = n
  induction n with
  | zero => rfl
  | succ n ih => rw [drawRow_eq_foldl, drawPixel_eq, ih]

/-- Drawing a sprite changes nothing but the registers and the framebuffer. -/
theorem State.drawSprite_eq (vx vy : Byte) (n : Nat) :
    s.drawSprite vx vy n = { s with
      V := (s.drawSprite vx vy n).V, fb := (s.drawSprite vx vy n).fb } := by
  induction n with
  | zero => rfl
  | succ n ih => rw [drawSprite_succ, drawRow_eq, ih]

/-- One set bit of a sprite: its cell is inverted, and the flag register records a collision. -/
theorem State.xorCell_spec (r : Fin 32) (c : Fin 64) :
    (∀ r' c', (s.xorCell r c).cell r' c' =
      if r' = r ∧ c' = c then !s.cell r c else s.cell r' c') ∧
    (∀ q, (s.xorCell r c).reg q =
      if q = flagReg ∧ s.cell r c = true then 1#8 else s.reg q) := by
  refine ⟨fun r' c' => ?_, fun q => ?_⟩ <;> unfold xorCell <;> split <;> simp [*]

/-! ### Keys and timers -/

@[simp] theorem State.runTimers_of_faulted (h : s.faulted = true) : s.runTimers = s := by
  simp [runTimers, h]

theorem State.runTimers_of_running (h : s.faulted = false) :
    s.runTimers = { s with DT := timerPred s.DT, ST := timerPred s.ST } := by
  simp [runTimers, h]

/-- The timers' step changes nothing but the timers. -/
theorem State.runTimers_eq :
    s.runTimers = { s with DT := s.runTimers.DT, ST := s.runTimers.ST } := by
  unfold runTimers; split <;> rfl

/-- A timer's step is minus one, floored at zero. -/
theorem timerPred_toNat (t : Byte) : (timerPred t).toNat = t.toNat - 1 := by
  unfold timerPred
  split
  · subst_vars; rfl
  · rename_i h
    have : t.toNat ≠ 0 := fun h0 => h (BitVec.eq_of_toNat_eq (by simpa using h0))
    simp [BitVec.toNat_sub]
    omega

end Sys2Proof.Machine
end

