-- ==== Sys2Proof/Laws/PerInstr.lean ====
section
/-! SUPPORT. Statements made of every instruction, one lemma per constructor. -/

namespace Sys2Proof.Laws.EncodeFamily

/-- The family selector of each variant's pattern (spec/30_encoding.md rules R91, R95). -/
def family : Instr → BitVec 4

  | .cls => 0x0
  | .ret => 0x0
  | .jp _ => 0x1
  | .call _ => 0x2
  | .seImm _ _ => 0x3
  | .sneImm _ _ => 0x4
  | .seReg _ _ => 0x5
  | .ldImm _ _ => 0x6
  | .addImm _ _ => 0x7
  | .ldReg _ _ => 0x8
  | .orReg _ _ => 0x8
  | .andReg _ _ => 0x8
  | .xorReg _ _ => 0x8
  | .addReg _ _ => 0x8
  | .subReg _ _ => 0x8
  | .shr _ _ => 0x8
  | .subnReg _ _ => 0x8
  | .shl _ _ => 0x8
  | .sneReg _ _ => 0x9
  | .ldI _ => 0xA
  | .jpV0 _ => 0xB
  | .rnd _ _ => 0xC
  | .drw _ _ _ => 0xD
  | .skp _ => 0xE
  | .sknp _ => 0xE
  | .ldVxDT _ => 0xF
  | .ldVxK _ => 0xF
  | .ldDTVx _ => 0xF
  | .ldSTVx _ => 0xF
  | .addIVx _ => 0xF
  | .ldFVx _ => 0xF
  | .ldBVx _ => 0xF
  | .ldMemVx _ => 0xF
  | .ldVxMem _ => 0xF

/-- An instruction is well formed, is two bytes long, and its word has the selector of its family. -/
def Statement (i : Instr) : Prop :=
  i.WellFormed ∧ (encode i).length = 2 ∧ fieldOp (encodeWord i) = family i

theorem cls : Statement .cls := ⟨trivial, rfl, by decide⟩
theorem ret : Statement .ret := ⟨trivial, rfl, by decide⟩
theorem jp (nnn : Addr12) : Statement (.jp nnn) := ⟨nnn.isLt, rfl, fieldOp_formatA _ _⟩
theorem call (nnn : Addr12) : Statement (.call nnn) := ⟨nnn.isLt, rfl, fieldOp_formatA _ _⟩
theorem seImm (x : Reg) (kk : Byte) : Statement (.seImm x kk) :=
  ⟨⟨x.isLt, kk.isLt⟩, rfl, fieldOp_formatXK _ _ _⟩
theorem sneImm (x : Reg) (kk : Byte) : Statement (.sneImm x kk) :=
  ⟨⟨x.isLt, kk.isLt⟩, rfl, fieldOp_formatXK _ _ _⟩
theorem seReg (x y : Reg) : Statement (.seReg x y) :=
  ⟨⟨x.isLt, y.isLt⟩, rfl, fieldOp_formatXY _ _ _ _⟩
theorem ldImm (x : Reg) (kk : Byte) : Statement (.ldImm x kk) :=
  ⟨⟨x.isLt, kk.isLt⟩, rfl, fieldOp_formatXK _ _ _⟩
theorem addImm (x : Reg) (kk : Byte) : Statement (.addImm x kk) :=
  ⟨⟨x.isLt, kk.isLt⟩, rfl, fieldOp_formatXK _ _ _⟩
theorem ldReg (x y : Reg) : Statement (.ldReg x y) :=
  ⟨⟨x.isLt, y.isLt⟩, rfl, fieldOp_formatXY _ _ _ _⟩
theorem orReg (x y : Reg) : Statement (.orReg x y) :=
  ⟨⟨x.isLt, y.isLt⟩, rfl, fieldOp_formatXY _ _ _ _⟩
theorem andReg (x y : Reg) : Statement (.andReg x y) :=
  ⟨⟨x.isLt, y.isLt⟩, rfl, fieldOp_formatXY _ _ _ _⟩
theorem xorReg (x y : Reg) : Statement (.xorReg x y) :=
  ⟨⟨x.isLt, y.isLt⟩, rfl, fieldOp_formatXY _ _ _ _⟩
theorem addReg (x y : Reg) : Statement (.addReg x y) :=
  ⟨⟨x.isLt, y.isLt⟩, rfl, fieldOp_formatXY _ _ _ _⟩
theorem subReg (x y : Reg) : Statement (.subReg x y) :=
  ⟨⟨x.isLt, y.isLt⟩, rfl, fieldOp_formatXY _ _ _ _⟩
theorem shr (x y : Reg) : Statement (.shr x y) := ⟨⟨x.isLt, y.isLt⟩, rfl, fieldOp_formatXY _ _ _ _⟩
theorem subnReg (x y : Reg) : Statement (.subnReg x y) :=
  ⟨⟨x.isLt, y.isLt⟩, rfl, fieldOp_formatXY _ _ _ _⟩
theorem shl (x y : Reg) : Statement (.shl x y) := ⟨⟨x.isLt, y.isLt⟩, rfl, fieldOp_formatXY _ _ _ _⟩
theorem sneReg (x y : Reg) : Statement (.sneReg x y) :=
  ⟨⟨x.isLt, y.isLt⟩, rfl, fieldOp_formatXY _ _ _ _⟩
theorem ldI (nnn : Addr12) : Statement (.ldI nnn) := ⟨nnn.isLt, rfl, fieldOp_formatA _ _⟩
theorem jpV0 (nnn : Addr12) : Statement (.jpV0 nnn) := ⟨nnn.isLt, rfl, fieldOp_formatA _ _⟩
theorem rnd (x : Reg) (kk : Byte) : Statement (.rnd x kk) :=
  ⟨⟨x.isLt, kk.isLt⟩, rfl, fieldOp_formatXK _ _ _⟩
theorem drw (x y : Reg) (n : Fin 16) : Statement (.drw x y n) :=
  ⟨⟨x.isLt, y.isLt, n.isLt⟩, rfl, fieldOp_formatXY _ _ _ _⟩
theorem skp (x : Reg) : Statement (.skp x) := ⟨x.isLt, rfl, fieldOp_formatXK _ _ _⟩
theorem sknp (x : Reg) : Statement (.sknp x) := ⟨x.isLt, rfl, fieldOp_formatXK _ _ _⟩
theorem ldVxDT (x : Reg) : Statement (.ldVxDT x) := ⟨x.isLt, rfl, fieldOp_formatXK _ _ _⟩
theorem ldVxK (x : Reg) : Statement (.ldVxK x) := ⟨x.isLt, rfl, fieldOp_formatXK _ _ _⟩
theorem ldDTVx (x : Reg) : Statement (.ldDTVx x) := ⟨x.isLt, rfl, fieldOp_formatXK _ _ _⟩
theorem ldSTVx (x : Reg) : Statement (.ldSTVx x) := ⟨x.isLt, rfl, fieldOp_formatXK _ _ _⟩
theorem addIVx (x : Reg) : Statement (.addIVx x) := ⟨x.isLt, rfl, fieldOp_formatXK _ _ _⟩
theorem ldFVx (x : Reg) : Statement (.ldFVx x) := ⟨x.isLt, rfl, fieldOp_formatXK _ _ _⟩
theorem ldBVx (x : Reg) : Statement (.ldBVx x) := ⟨x.isLt, rfl, fieldOp_formatXK _ _ _⟩
theorem ldMemVx (x : Reg) : Statement (.ldMemVx x) := ⟨x.isLt, rfl, fieldOp_formatXK _ _ _⟩
theorem ldVxMem (x : Reg) : Statement (.ldVxMem x) := ⟨x.isLt, rfl, fieldOp_formatXK _ _ _⟩

end Sys2Proof.Laws.EncodeFamily
end

