-- ==== Sys2Proof/Laws/Ports.lean ====
section
/-! SUPPORT. What the reset port leaves, and the cases of a run with an end. -/

namespace Sys2Proof.Machine

/-- The reset port leaves the reset state but for the model's own counter. -/
theorem resetCore_eq (s : State) : resetCore s = { State.reset with randDraws := s.randDraws } := rfl

@[simp] theorem resetCore_randDraws (s : State) : (resetCore s).randDraws = s.randDraws := rfl
@[simp] theorem resetCore_mem (s : State) : (resetCore s).mem = [] := rfl
@[simp] theorem resetCore_faulted (s : State) : (resetCore s).faulted = false := rfl
@[simp] theorem resetCore_faultRec (s : State) : (resetCore s).faultRec = none := rfl
@[simp] theorem resetCore_pc (s : State) : (resetCore s).pc = Config.progStart := rfl
@[simp] theorem resetCore_slot (s : State) (k : Fin 16) : (resetCore s).slot k = State.reset.slot k := rfl

/-- The host's key writes change the keys only. -/
theorem writeKeys_eq (ws : List (Fin 16 × Bool)) (s : State) :
    ∃ key, writeKeys ws s = { s with key := key } := by
  induction ws generalizing s with
  | nil => exact ⟨s.key, rfl⟩
  | cons w ws ih =>
    obtain ⟨key, h⟩ := ih (keyIn w.1 w.2 s)
    exact ⟨key, h⟩

/-- A run that is over ticks no more. -/
theorem runUntil_over {endOfRun : State → Bool} {s : State} (h : runOver endOfRun s = true)
    (inputs : List (List (Fin 16 × Bool))) : runUntil endOfRun inputs s = .next s := by
  cases inputs <;> simp [runUntil, h]

/-- A run that is not over goes on from the next tick. -/
theorem runUntil_step {endOfRun : State → Bool} {s t : State} {ws : List (Fin 16 × Bool)}
    (h : runOver endOfRun s = false) (hs : step (writeKeys ws s) = .next t)
    (inputs : List (List (Fin 16 × Bool))) :
    runUntil endOfRun (ws :: inputs) s = runUntil endOfRun inputs t := by
  simp [runUntil, h, hs]

end Sys2Proof.Machine
end

