-- ==== Sys2Proof/Laws/Sprite.lean ====
section
/-! SUPPORT. Drawing a sprite as the inverting of a list of distinct cells. -/

namespace Sys2Proof.Machine

variable (s : State)

/-- The cells inverted one after another. -/
def State.xorCells (s : State) (cells : List (Fin 32 × Fin 64)) : State :=
  cells.foldl (fun t p => t.xorCell p.1 p.2) s

/-- Inverting distinct cells: each of them is inverted once, and the flag register records whether one of
them was lit. -/
theorem State.xorCells_spec (cells : List (Fin 32 × Fin 64)) (h : cells.Nodup) :
    (∀ r c, (s.xorCells cells).cell r c =
      if (r, c) ∈ cells then !s.cell r c else s.cell r c) ∧
    (∀ q, (s.xorCells cells).reg q =
      if q = flagReg ∧ cells.any (fun p => s.cell p.1 p.2) = true then 1#8 else s.reg q) := by
  induction cells generalizing s with
  | nil => simp [xorCells]
  | cons p cells ih =>
    obtain ⟨hp, hn⟩ := List.nodup_cons.mp h
    obtain ⟨ihc, ihr⟩ := ih (s.xorCell p.1 p.2) hn
    obtain ⟨hc, hr⟩ := s.xorCell_spec p.1 p.2
    have hother : ∀ q ∈ cells, (s.xorCell p.1 p.2).cell q.1 q.2 = s.cell q.1 q.2 := by
      intro q hq
      rw [hc, if_neg]
      rintro ⟨h1, h2⟩
      exact hp (by rwa [show q = p from Prod.ext h1 h2] at hq)
    refine ⟨fun r c => ?_, fun q => ?_⟩
    · show ((s.xorCell p.1 p.2).xorCells cells).cell r c = _
      rw [ihc, hc]
      by_cases hrc : (r, c) = p
      · subst hrc
        simp [hp]
      · have hne : ¬(r = p.1 ∧ c = p.2) := fun hh => hrc (Prod.ext hh.1 hh.2)
        simp [hrc, hne]
    · show ((s.xorCell p.1 p.2).xorCells cells).reg q = _
      have hany : cells.any (fun q => (s.xorCell p.1 p.2).cell q.1 q.2) =
          cells.any (fun q => s.cell q.1 q.2) := by
        rw [Bool.eq_iff_iff, List.any_eq_true, List.any_eq_true]
        exact exists_congr fun q => and_congr_right fun hq => by rw [hother q hq]
      rw [ihr, hr, hany, List.any_cons]
      by_cases h1 : q = flagReg
      · cases s.cell p.1 p.2 <;> simp [h1]
      · simp [h1]

/-- The columns of the set bits of a sprite byte. -/
def setColumns (b : Byte) : List Nat := (List.range 8).filter (spriteBit b)

/-- The cells one sprite row covers. -/
def rowCells (vx vy b : Byte) (row : Nat) : List (Fin 32 × Fin 64) :=
  (setColumns b).map fun col => (spriteRow vy row, spriteCol vx col)

/-- The cells the sprite's set bits cover, row after row. -/
def State.spriteCells (s : State) (vx vy : Byte) (n : Nat) : List (Fin 32 × Fin 64) :=
  (List.range n).flatMap fun row => rowCells vx vy (s.readByte (s.I.toNat + row)) row

theorem State.drawRow_eq_xorCells (vx vy b : Byte) (row : Nat) :
    s.drawRow vx vy b row = s.xorCells (rowCells vx vy b row) := by
  unfold drawRow rowCells setColumns xorCells
  generalize List.range 8 = cols
  induction cols generalizing s with
  | nil => rfl
  | cons col cols ih =>
    rw [List.foldl_cons, ih, drawPixel]
    by_cases h : spriteBit b col = true <;> simp [h]

/-- Drawing a sprite inverts the cells its set bits cover. -/
theorem State.drawSprite_eq_xorCells (vx vy : Byte) (n : Nat) :
    s.drawSprite vx vy n = s.xorCells (s.spriteCells vx vy n) := by
  induction n with
  | zero => rfl
  | succ n ih =>
    have hread : ∀ a, (s.drawSprite vx vy n).readByte ((s.drawSprite vx vy n).I.toNat + a) =
        s.readByte (s.I.toNat + a) := by
      intro a; rw [drawSprite_eq]; rfl
    rw [drawSprite_succ, hread, drawRow_eq_xorCells, ih]
    simp [spriteCells, List.range_succ, xorCells]

/-- A covered cell is that of a set bit. -/
theorem State.mem_spriteCells {vx vy : Byte} {n : Nat} {r : Fin 32} {c : Fin 64} :
    (r, c) ∈ s.spriteCells vx vy n ↔ ∃ row < n, ∃ col < 8,
      spriteBit (s.readByte (s.I.toNat + row)) col = true ∧
        r = spriteRow vy row ∧ c = spriteCol vx col := by
  simp only [spriteCells, rowCells, setColumns, List.mem_flatMap, List.mem_range, List.mem_map,
    List.mem_filter, Prod.mk.injEq]
  constructor
  · rintro ⟨row, hrow, col, ⟨hcol, hb⟩, hr, hc⟩
    exact ⟨row, hrow, col, hcol, hb, hr.symm, hc.symm⟩
  · rintro ⟨row, hrow, col, hcol, hb, hr, hc⟩
    exact ⟨row, hrow, col, ⟨hcol, hb⟩, hr.symm, hc.symm⟩

/-- No self-overlap: a sprite of at most 32 rows covers each cell at most once (R191 (c)). -/
theorem State.spriteCells_nodup (vx vy : Byte) {n : Nat} (hn : n ≤ 32) :
    (s.spriteCells vx vy n).Nodup := by
  have hrow : ∀ i j, i < 32 → j < 32 → spriteRow vy i = spriteRow vy j → i = j := by
    intro i j hi hj h
    have := congrArg Fin.val h
    simp [spriteRow] at this
    omega
  have hcol : ∀ i j, i < 8 → j < 8 → spriteCol vx i = spriteCol vx j → i = j := by
    intro i j hi hj h
    have := congrArg Fin.val h
    simp [spriteCol] at this
    omega
  rw [spriteCells, List.nodup_flatMap]
  refine ⟨fun row _ => ?_, ?_⟩
  · refine List.Nodup.map_on ?_ (List.Nodup.filter _ List.nodup_range)
    intro i hi j hj h
    simp [setColumns] at hi hj
    exact hcol i j hi.1 hj.1 (congrArg Prod.snd h)
  · refine List.Pairwise.imp_of_mem ?_ (List.nodup_range (n := n))
    intro i j hi hj hij p hp hq
    simp [rowCells] at hp hq hi hj
    obtain ⟨_, _, rfl⟩ := hp
    obtain ⟨_, _, h⟩ := hq
    exact hij (hrow j i (by omega) (by omega) (congrArg Prod.fst h)).symm

/-- The sprite's bit is bit `7 - col` of its byte (R191 (a)). -/
theorem spriteBit_eq (b : Byte) {col : Nat} (h : col < 8) :
    spriteBit b col = b.getLsbD (7 - col) := by
  unfold spriteBit
  interval_cases col <;> revert b <;> decide

end Sys2Proof.Machine
end

