-- ==== Sys2Proof/Laws/Step.lean ====
section
/-! SUPPORT. What a step can do, said once. -/

namespace Sys2Proof.Machine

/-- The state an instruction executes in: the fetched word is latched and `pc` is advanced (R121, R122). -/
def State.fetched (s : State) : State := (s.latchOpcode s.fetchWord).advance

/-- A step is one of four things: nothing (the latch is set), a fetch fault, a decode fault, or the decoded
instruction's effect and then the timers' step. -/
theorem step_cases (s : State) :
    (s.faulted = true ∧ step s = .next s) ∨
    (s.faulted = false ∧ 4094 < s.pc.toNat ∧ step s = .next (s.raiseMem s.pc.toNat)) ∨
    (s.faulted = false ∧ s.pc.toNat ≤ 4094 ∧ decodeWord s.fetchWord = none ∧
      step s = .next (s.fetched.raise .decodeFailure)) ∨
    (s.faulted = false ∧ s.pc.toNat ≤ 4094 ∧ ∃ i, decodeWord s.fetchWord = some i ∧
      step s = finishTick (exec i s.fetched)) := by
  cases hf : s.faulted with
  | true => exact .inl ⟨rfl, by simp [step, tick, hf]⟩
  | false =>
    refine .inr ?_
    by_cases hp : s.pc.toNat ≤ 4094
    · have hb : memInBounds s.pc.toNat 2 = true := by rw [memInBounds_iff]; omega
      refine .inr ?_
      cases hd : decodeWord s.fetchWord with
      | none => exact .inl ⟨rfl, hp, rfl, by simp [step, tick, hf, hb, decodeAndExecute, hd, State.fetched]⟩
      | some i =>
        exact .inr ⟨rfl, hp, i, rfl, by simp [step, tick, hf, hb, decodeAndExecute, hd, State.fetched]⟩
    · have hb : memInBounds s.pc.toNat 2 = false := by
        rw [← Bool.not_eq_true, memInBounds_iff]; omega
      exact .inl ⟨rfl, by omega, by simp [step, tick, hf, hb]⟩

end Sys2Proof.Machine
end

