-- ==== Sys2Proof/Tests/Slice0.lean ====
section
/-! SUPPORT. Tests of the model. Expected results are the vectors of spec/95_test_vectors.md, by their ids. -/

open Sys2Proof Sys2Proof.Machine

namespace Sys2Proof.Tests

/-! ### Helpers -/

/-- The answer is a next state with the property. -/
def nextHas (o : Result) (p : State → Bool) : Bool :=
  match o with
  | .next t => p t
  | .fault _ => false
  | .refused _ => false

/-- The next state of an answer that has one. -/
def nextOf : Result → State
  | .next t => t
  | .fault _ => State.reset
  | .refused _ => State.reset

/-- The common start state of the vectors: reset, with the word under test at 0x200. -/
def start (w : Word) : State := State.reset.placeWord w

/-- The record of a fatal condition: its kind, with the word and `pc` shown. -/
def faultedWith (k : FatalKind) (w pc : Word) (t : State) : Bool :=
  t.faulted && decide (t.faultRec = some ⟨k, w, pc⟩)

/-- One tick on the word `w` from the common start state changed by `f`. -/
def tickOf (w : Word) (f : State → State) : Result := step (f (start w))

/-- A state whose stack pointer is `k`. -/
def withSp (k : Fin 17) (s : State) : State := { s with sp := k }

/-- A state whose stack slot `k` holds `w`. -/
def withSlot (k : Fin 16) (w : Word) (s : State) : State := { s with stack := s.stack.set k.val w }

/-- A state whose keys of the list are pressed. -/
def pressed (ks : List (Fin 16)) (s : State) : State := ks.foldl (fun t k => keyIn k true t) s

/-- A state whose registers 0 on hold the bytes of the list. -/
def withRegs (bs : List Byte) (s : State) : State :=
  (bs.foldl (fun (p : State × Nat) b => (p.1.setReg (Fin.ofNat 16 p.2) b, p.2 + 1)) (s, 0)).1

/-- The common start state's fault record of a condition. -/
def faultsWith (k : FatalKind) (w : Word) (t : State) : Bool := faultedWith k w 0x202 t

/-! ### Operand ranges and the canonical form refuse what they should -/

theorem test_wf_refuses_register : ¬ regInRange 16 := by decide
theorem test_wf_refuses_nibble : ¬ nibbleInRange 16 := by decide
theorem test_wf_refuses_byte : ¬ byteInRange 256 := by decide
theorem test_wf_refuses_address : ¬ addrInRange 4096 := by decide
theorem test_wf_accepts_bounds :
    regInRange 15 ∧ nibbleInRange 15 ∧ byteInRange 255 ∧ addrInRange 4095 := by decide
theorem test_memory_refuses_unsorted : Memory.wf [(2, 1#8), (1, 1#8)] = false := by decide
theorem test_memory_refuses_repeat : Memory.wf [(2, 1#8), (2, 3#8)] = false := by decide
theorem test_memory_refuses_zero : Memory.wf [(2, 0#8)] = false := by decide
theorem test_memory_refuses_outside : Memory.wf [(4096, 1#8)] = false := by decide

/-! ### Decoding: the words of vectors K1 to K34, one for every variant -/

theorem test_decode_K1_cls : decodeWord 0x00E0 = some .cls := by decide
theorem test_decode_K2_ret : decodeWord 0x00EE = some .ret := by decide
theorem test_decode_K3_jp : decodeWord 0x1ABC = some (.jp 0xABC) := by decide
theorem test_decode_K4_call : decodeWord 0x2FFF = some (.call 0xFFF) := by decide
theorem test_decode_K5_seImm : decodeWord 0x3A07 = some (.seImm 10 0x07) := by decide
theorem test_decode_K6_sneImm : decodeWord 0x4F00 = some (.sneImm 15 0x00) := by decide
theorem test_decode_K7_seReg : decodeWord 0x5AB0 = some (.seReg 10 11) := by decide
theorem test_decode_K8_ldImm : decodeWord 0x6FFF = some (.ldImm 15 0xFF) := by decide
theorem test_decode_K9_addImm : decodeWord 0x7000 = some (.addImm 0 0) := by decide
theorem test_decode_K10_ldReg : decodeWord 0x8120 = some (.ldReg 1 2) := by decide
theorem test_decode_K11_or : decodeWord 0x8121 = some (.orReg 1 2) := by decide
theorem test_decode_K12_and : decodeWord 0x8122 = some (.andReg 1 2) := by decide
theorem test_decode_K13_xor : decodeWord 0x8123 = some (.xorReg 1 2) := by decide
theorem test_decode_K14_addReg : decodeWord 0x8124 = some (.addReg 1 2) := by decide
theorem test_decode_K15_sub : decodeWord 0x8125 = some (.subReg 1 2) := by decide
theorem test_decode_K16_shr : decodeWord 0x8126 = some (.shr 1 2) := by decide
theorem test_decode_K17_subn : decodeWord 0x8127 = some (.subnReg 1 2) := by decide
theorem test_decode_K18_shl : decodeWord 0x81FE = some (.shl 1 15) := by decide
theorem test_decode_K19_sneReg : decodeWord 0x9AB0 = some (.sneReg 10 11) := by decide
theorem test_decode_K20_ldI : decodeWord 0xA123 = some (.ldI 0x123) := by decide
theorem test_decode_K21_jpV0 : decodeWord 0xB000 = some (.jpV0 0) := by decide
theorem test_decode_K22_rnd : decodeWord 0xC1F0 = some (.rnd 1 0xF0) := by decide
theorem test_decode_K23_drw : decodeWord 0xDABF = some (.drw 10 11 15) := by decide
theorem test_decode_K24_skp : decodeWord 0xE09E = some (.skp 0) := by decide
theorem test_decode_K25_sknp : decodeWord 0xEFA1 = some (.sknp 15) := by decide
theorem test_decode_K26_ldVxDT : decodeWord 0xF007 = some (.ldVxDT 0) := by decide
theorem test_decode_K27_ldVxK : decodeWord 0xF00A = some (.ldVxK 0) := by decide
theorem test_decode_K28_ldDTVx : decodeWord 0xF015 = some (.ldDTVx 0) := by decide
theorem test_decode_K29_ldSTVx : decodeWord 0xF018 = some (.ldSTVx 0) := by decide
theorem test_decode_K30_addIVx : decodeWord 0xF01E = some (.addIVx 0) := by decide
theorem test_decode_K31_ldFVx : decodeWord 0xF029 = some (.ldFVx 0) := by decide
theorem test_decode_K32_ldBVx : decodeWord 0xF033 = some (.ldBVx 0) := by decide
theorem test_decode_K33_ldMemVx : decodeWord 0xFF55 = some (.ldMemVx 15) := by decide
theorem test_decode_K34_ldVxMem : decodeWord 0xFF65 = some (.ldVxMem 15) := by decide

/-- Vectors E1 to E22: in every family that has unrecognized words. -/
theorem test_decode_E_unrecognized :
    ([0x0000, 0x00E1, 0x01E0, 0x0FEE, 0x00EF, 0x5001, 0x500F, 0x5121, 0x8128, 0x812D, 0x812F, 0x9121] ++
     [0xE09D, 0xE09F, 0xE300, 0xE1A2, 0xF000, 0xF108, 0xF116, 0xF11F, 0xF130, 0xF156, 0xF166, 0xF1FF] ++
     [0xFFFF] : List Word).all (fun w => decodeWord w = none) = true := by decide

/-- The byte at the lower address is the high byte; a byte left over is given back; one byte is no word. -/
theorem test_decode_bytes :
    decode [0x12, 0x08, 0x99] = .ok (.jp 0x208, [0x99]) ∧
    decode [0x08, 0x12] = .error (.unrecognized 0x0812) ∧ decode [0x12] = .error .tooShort := by
  refine ⟨rfl, rfl, rfl⟩

/-- The host's two questions about a row, on the word of `LD Vx, kk`. -/
theorem test_table_word :
    decodeTableWord 16 0x6A2C = some (.ldImm 10 0x2C) ∧
    nextHas (step (State.reset.withFetchWord 16 0x6A2C)) (fun t => t.reg 10 == 0x2C#8) = true := by
  decide

/-! ### One tick: vectors F, A, M, D, Y and T -/

/-- F1: the popped slot keeps its value. -/
theorem test_F1_ret :
    nextHas (tickOf 0x00EE (fun s => withSlot 0 0x204 (withSp 1 s)))
      (fun t => t.pc == 0x204#16 && t.sp == 0 && t.slot 0 == 0x204#16) = true := by decide

/-- F2. -/
theorem test_F2_ret_empty :
    nextHas (tickOf 0x00EE (fun s => s))
      (fun t => faultsWith .stackUnderflow 0x00EE t && t.sp == 0) = true := by decide

/-- F4. -/
theorem test_F4_jp :
    nextHas (tickOf 0x1234 (fun s => s)) (fun t => t.pc == 0x234#16) = true := by decide

/-- F5. -/
theorem test_F5_jp_odd :
    nextHas (tickOf 0x1FFF (fun s => s)) (fun t => t.pc == 0xFFF#16 && !t.faulted) = true := by decide

/-- F8: the sixteenth outstanding call. -/
theorem test_F8_call :
    nextHas (tickOf 0x2300 (fun s => withSp 15 s))
      (fun t => t.slot 15 == 0x202#16 && t.sp == 16 && t.pc == 0x300#16) = true := by decide

/-- F9. -/
theorem test_F9_call_full :
    nextHas (tickOf 0x2300 (fun s => withSp 16 s))
      (fun t => faultsWith .stackOverflow 0x2300 t && t.sp == 16 && t.slot 15 == 0#16) = true := by decide

/-- F10. -/
theorem test_F10_seImm :
    nextHas (tickOf 0x3A07 (fun s => s.setReg 10 7)) (fun t => t.pc == 0x204#16) = true := by decide

/-- F11. -/
theorem test_F11_seImm_not :
    nextHas (tickOf 0x3A07 (fun s => s.setReg 10 8)) (fun t => t.pc == 0x202#16) = true := by decide

/-- F12. -/
theorem test_F12_sneImm :
    nextHas (tickOf 0x4A07 (fun s => s.setReg 10 8)) (fun t => t.pc == 0x204#16) = true := by decide

/-- F13. -/
theorem test_F13_sneImm_not :
    nextHas (tickOf 0x4A07 (fun s => s.setReg 10 7)) (fun t => t.pc == 0x202#16) = true := by decide

/-- F14. -/
theorem test_F14_seReg :
    nextHas (tickOf 0x5120 (fun s => (s.setReg 1 0x33).setReg 2 0x33))
      (fun t => t.pc == 0x204#16) = true := by decide

/-- F15. -/
theorem test_F15_seReg_not :
    nextHas (tickOf 0x5120 (fun s => (s.setReg 1 0x33).setReg 2 0x34))
      (fun t => t.pc == 0x202#16) = true := by decide

/-- F17. -/
theorem test_F17_sneReg :
    nextHas (tickOf 0x9120 (fun s => (s.setReg 1 1).setReg 2 2)) (fun t => t.pc == 0x204#16) = true := by decide

/-- F18. -/
theorem test_F18_sneReg_not :
    nextHas (tickOf 0x9120 (fun s => (s.setReg 1 2).setReg 2 2)) (fun t => t.pc == 0x202#16) = true := by decide

/-- F20. -/
theorem test_F20_jpV0 :
    nextHas (tickOf 0xB300 (fun s => s.setReg 0 0x10)) (fun t => t.pc == 0x310#16) = true := by decide

/-- F21: no wrap to 12 bits. -/
theorem test_F21_jpV0_top :
    nextHas (tickOf 0xBFFF (fun s => s.setReg 0 0xFF)) (fun t => t.pc == 0x10FE#16) = true := by decide

/-- A1. -/
theorem test_A1_ldImm :
    nextHas (tickOf 0x6A2C (fun s => s)) (fun t => t.reg 10 == 0x2C#8) = true := by decide

/-- A2. -/
theorem test_A2_ldImm_flag :
    nextHas (tickOf 0x6FFF (fun s => s)) (fun t => t.reg 15 == 0xFF#8) = true := by decide

/-- A3: wraps, no flag. -/
theorem test_A3_addImm :
    nextHas (tickOf 0x7305 (fun s => s.setReg 3 0xFE))
      (fun t => t.reg 3 == 3#8 && t.reg 15 == 0#8) = true := by decide

/-- A7. -/
theorem test_A7_addImm_flag :
    nextHas (tickOf 0x7F01 (fun s => s.setReg 15 0xFF)) (fun t => t.reg 15 == 0#8) = true := by decide

/-- A8. -/
theorem test_A8_ldReg :
    nextHas (tickOf 0x8120 (fun s => s.setReg 2 0x77)) (fun t => t.reg 1 == 0x77#8) = true := by decide

/-- A9: VF keeps 7. -/
theorem test_A9_or :
    nextHas (tickOf 0x8121 (fun s => ((s.setReg 1 0xF0).setReg 2 0x0C).setReg 15 7))
      (fun t => t.reg 1 == 0xFC#8 && t.reg 15 == 7#8) = true := by decide

/-- A10. -/
theorem test_A10_and :
    nextHas (tickOf 0x8122 (fun s => (s.setReg 1 0xF0).setReg 2 0x3C))
      (fun t => t.reg 1 == 0x30#8) = true := by decide

/-- A11. -/
theorem test_A11_xor :
    nextHas (tickOf 0x8123 (fun s => (s.setReg 1 0xF0).setReg 2 0x3C))
      (fun t => t.reg 1 == 0xCC#8) = true := by decide

/-- A15: a sum of exactly 255 clears the flag. -/
theorem test_A15_addReg :
    nextHas (tickOf 0x8124 (fun s => (s.setReg 1 0xFF).setReg 15 1))
      (fun t => t.reg 1 == 0xFF#8 && t.reg 15 == 0#8) = true := by decide

/-- A18: the sum is lost to the flag. -/
theorem test_A18_addReg_flag :
    nextHas (tickOf 0x8F14 (fun s => (s.setReg 15 0xF0).setReg 1 0x20))
      (fun t => t.reg 15 == 1#8) = true := by decide

/-- A21: borrow. -/
theorem test_A21_sub :
    nextHas (tickOf 0x8125 (fun s => ((s.setReg 1 5).setReg 2 7).setReg 15 9))
      (fun t => t.reg 1 == 0xFE#8 && t.reg 15 == 0#8) = true := by decide

/-- A23. -/
theorem test_A23_sub_equal :
    nextHas (tickOf 0x8125 (fun s => (s.setReg 1 7).setReg 2 7))
      (fun t => t.reg 1 == 0#8 && t.reg 15 == 1#8) = true := by decide

/-- A37: y is ignored. -/
theorem test_A37_shr :
    nextHas (tickOf 0x83A6 (fun s => (s.setReg 3 4).setReg 10 0xFF))
      (fun t => t.reg 3 == 2#8 && t.reg 15 == 0#8 && t.reg 10 == 0xFF#8) = true := by decide

/-- A38. -/
theorem test_A38_shr_flag :
    nextHas (tickOf 0x8F06 (fun s => s.setReg 15 0xFF)) (fun t => t.reg 15 == 0#8) = true := by decide

/-- A28. -/
theorem test_A28_subn :
    nextHas (tickOf 0x8127 (fun s => (s.setReg 1 5).setReg 2 7))
      (fun t => t.reg 1 == 2#8 && t.reg 15 == 1#8) = true := by decide

/-- A31. -/
theorem test_A31_subn_flag :
    nextHas (tickOf 0x8F17 (fun s => (s.setReg 15 3).setReg 1 9)) (fun t => t.reg 15 == 1#8) = true := by decide

/-- A40. -/
theorem test_A40_shl :
    nextHas (tickOf 0x830E (fun s => s.setReg 3 0x81))
      (fun t => t.reg 3 == 2#8 && t.reg 15 == 1#8) = true := by decide

/-- A44: the only way VF gets 2. -/
theorem test_A44_shl_flag :
    nextHas (tickOf 0x8F0E (fun s => s.setReg 15 0xFF)) (fun t => t.reg 15 == 2#8) = true := by decide

/-- A47: a mask of 0 gives 0 whatever the draw, and the draw is consumed. -/
theorem test_A47_rnd :
    nextHas (tickOf 0xC100 (fun s => s.setReg 1 9)) (fun t => t.randDraws == 1) = true := by decide

/-- M1. -/
theorem test_M1_ldI :
    nextHas (tickOf 0xA2F0 (fun s => s.setIndex 0xFFFF)) (fun t => t.I == 0x2F0#16) = true := by decide

/-- M3: wraps at 16 bits. -/
theorem test_M3_addIVx :
    nextHas (tickOf 0xF21E (fun s => (s.setIndex 0xFFFF).setReg 2 1))
      (fun t => t.I == 0#16 && t.reg 15 == 0#8) = true := by decide

/-- M4: no wrap at 12 bits. -/
theorem test_M4_addIVx :
    nextHas (tickOf 0xF21E (fun s => (s.setIndex 0x0FFF).setReg 2 1))
      (fun t => t.I == 0x1000#16 && t.reg 15 == 0#8) = true := by decide

/-- M5. -/
theorem test_M5_ldFVx :
    nextHas (tickOf 0xF329 (fun s => s.setReg 3 0x0A)) (fun t => t.I == 50#16) = true := by decide

/-- M6. -/
theorem test_M6_ldFVx_unmasked :
    nextHas (tickOf 0xF329 (fun s => s.setReg 3 0xFF)) (fun t => t.I == 1275#16) = true := by decide

/-- M8. -/
theorem test_M8_ldBVx :
    nextHas (tickOf 0xF533 (fun s => (s.setReg 5 156).setIndex 0x300))
      (fun t => t.readByte 0x300 == 1#8 && t.readByte 0x301 == 5#8 && t.readByte 0x302 == 6#8) = true := by decide

/-- M13: the sum is not reduced. -/
theorem test_M13_ldBVx_outside :
    nextHas (tickOf 0xF533 (fun s => (s.setReg 5 7).setIndex 0xFFFF))
      (fun t => faultsWith (.boundsViolation .mem 65535) 0xF533 t) = true := by decide

/-- M14: `V[3]` is not stored. -/
theorem test_M14_ldMemVx :
    nextHas (tickOf 0xF255 (fun s => (withRegs [1, 2, 3, 4] s).setIndex 0x400))
      (fun t => t.readByte 0x400 == 1#8 && t.readByte 0x402 == 3#8 && t.readByte 0x403 == 0#8 && t.I == 0x400#16) = true := by decide

/-- M16: nothing written. -/
theorem test_M16_ldMemVx_outside :
    nextHas (tickOf 0xF155 (fun s => (s.setReg 0 0xAB).setIndex 4095))
      (fun t => faultsWith (.boundsViolation .mem 4096) 0xF155 t && t.readByte 4095 == 0#8) = true := by decide

/-- M19: `V[2]` is not loaded. -/
theorem test_M19_ldVxMem :
    nextHas (tickOf 0xF165 (fun s => (s.loadBytes 0x400 [0xAA, 0xBB, 0xCC]).setIndex 0x400))
      (fun t => t.reg 0 == 0xAA#8 && t.reg 1 == 0xBB#8 && t.reg 2 == 0#8) = true := by decide

/-- M21: nothing loaded. -/
theorem test_M21_ldVxMem_outside :
    nextHas (tickOf 0xF165 (fun s => (s.writeByte 4095 0x5A).setIndex 4095))
      (fun t => faultsWith (.boundsViolation .mem 4096) 0xF165 t && t.reg 0 == 0#8) = true := by decide

/-- D1. -/
theorem test_D1_cls :
    nextHas (tickOf 0x00E0 (fun s => (s.setCell 0 0 true).setCell 31 63 true))
      (fun t => !t.cell 0 0 && !t.cell 31 63) = true := by decide

/-- D2: both edges wrap. -/
theorem test_D2_drw :
    nextHas (tickOf 0xD123 (fun s => (((s.loadBytes 0x300 [0xC0, 0, 0x81]).setIndex 0x300).setReg 1 62).setReg 2 31))
      (fun t => t.cell 31 62 && t.cell 31 63 && t.cell 1 62 && t.cell 1 5 && !t.cell 31 0 && !t.cell 0 62 && t.reg 15 == 0#8) = true := by decide

/-- D12: the coordinates are the old VF. -/
theorem test_D12_drw_flag :
    nextHas (tickOf 0xDFF1 (fun s => ((s.writeByte 0x300 0x80).setIndex 0x300).setReg 15 5))
      (fun t => t.cell 5 5 && !t.cell 0 0 && t.reg 15 == 0#8) = true := by decide

/-- Y3: key 15 is visible to the skips. -/
theorem test_Y3_skp :
    nextHas (tickOf 0xE39E (fun s => pressed [15] (s.setReg 3 15)))
      (fun t => t.pc == 0x204#16) = true := by decide

/-- Y4: no mask to 4 bits. -/
theorem test_Y4_skp_outside :
    nextHas (tickOf 0xE39E (fun s => pressed [0] (s.setReg 3 16)))
      (fun t => faultsWith (.boundsViolation .key 16) 0xE39E t) = true := by decide

/-- Y6. -/
theorem test_Y6_sknp :
    nextHas (tickOf 0xE3A1 (fun s => s.setReg 3 10)) (fun t => t.pc == 0x204#16) = true := by decide

/-- Y7. -/
theorem test_Y7_sknp_not :
    nextHas (tickOf 0xE3A1 (fun s => pressed [10] (s.setReg 3 10)))
      (fun t => t.pc == 0x202#16) = true := by decide

/-- Y9: the value before the decrement. -/
theorem test_Y9_ldVxDT :
    nextHas (tickOf 0xF407 (fun s => s.setDelay 9)) (fun t => t.reg 4 == 9#8 && t.DT == 8#8) = true := by decide

/-- Y13: the lowest pressed key. -/
theorem test_Y13_ldVxK :
    nextHas (tickOf 0xF50A (fun s => pressed [7, 3] s))
      (fun t => t.reg 5 == 3#8 && t.pc == 0x202#16) = true := by decide

/-- Y14, Y17: key 15 is not scanned, and the timers run while waiting. -/
theorem test_Y14_ldVxK_waits :
    nextHas (tickOf 0xF50A (fun s => (pressed [15] (s.setReg 5 9)).setDelay 5))
      (fun t => t.reg 5 == 9#8 && t.pc == 0x200#16 && t.DT == 4#8) = true := by decide

/-- Y18: decremented in the same tick. -/
theorem test_Y18_ldDTVx :
    nextHas (tickOf 0xF615 (fun s => s.setReg 6 5)) (fun t => t.DT == 4#8) = true := by decide

/-- Y23: the two timers are independent. -/
theorem test_Y23_ldSTVx :
    nextHas (tickOf 0xF618 (fun s => (s.setReg 6 5).setDelay 3))
      (fun t => t.ST == 4#8 && t.DT == 2#8) = true := by decide

/-- T1. -/
theorem test_T1_timers :
    nextHas (tickOf 0x6000 (fun s => (s.setDelay 1).setSound 255))
      (fun t => t.DT == 0#8 && t.ST == 254#8) = true := by decide

/-- T2: 4094 is the highest legal fetch address. -/
theorem test_T2_last_word :
    nextHas (tickOf 0x0000 (fun s => (s.loadBytes 4094 [0x12, 0]).setPc 4094))
      (fun t => t.pc == 0x200#16 && t.lastOpcode == 0x1200#16) = true := by decide

/-- T3, T10. -/
theorem test_T3_fetch_outside :
    nextHas (tickOf 0x0000 (fun s => (s.latchOpcode 0x1FFF).setPc 4095))
      (fun t => faultedWith (.boundsViolation .mem 4096) 0x1FFF 4095 t && t.pc == 4095#16) = true := by decide

/-- T4. -/
theorem test_T4_fetch_above :
    nextHas (tickOf 0x0000 (fun s => s.setPc 0x10FE))
      (fun t => faultedWith (.boundsViolation .mem 0x10FE) 0 0x10FE t) = true := by decide

/-- T6, T9: the timers do not run. -/
theorem test_T6_decode_fault :
    nextHas (tickOf 0x0000 (fun s => s.setDelay 5))
      (fun t => faultsWith .decodeFailure 0 t && t.DT == 5#8 && t.pc == 0x202#16) = true := by decide

/-- T7. -/
theorem test_T7_after_fault :
    nextHas (tickOf 0x6A2C (fun s => s.raise .decodeFailure))
      (fun t => t.faulted && t.pc == 0x200#16 && t.reg 10 == 0#8) = true := by decide

/-! ### Witnesses: what the hypotheses of each obligation ask can be met, clause by clause -/

/-- A state at the end of memory for an access of `k` bytes: the last one is at 4095. -/
def atEnd (w : Word) (k : Nat) : State := (start w).setIndex (BitVec.ofNat 16 (4096 - k))

theorem witness_DecodeOfEncodeIsInstruction :
    (Instr.drw 15 15 15).WellFormed ∧ (Instr.ldI 0xFFF).WellFormed ∧ (Instr.rnd 0 255).WellFormed :=
  ⟨by unfold Instr.WellFormed; decide, by unfold Instr.WellFormed; decide,
   by unfold Instr.WellFormed; decide⟩

theorem witness_EncodeOfDecodeIsWord :
    decodeWord 0x81FE = some (.shl 1 15) ∧ decodeWord 0x8006 = some (.shr 0 0) := by decide

/-- One unrecognized word under each of the six cases. -/
theorem witness_UnrecognizedWordsListed :
    [0x00E1, 0x5001, 0x8128, 0x9121, 0xE09D, 0xF000].all
      (fun w : Word => decodeWord w = none) = true := by decide

/-- At the last word of memory, as in vector T2. -/
theorem witness_StepRunsDecodedInstruction :
    ∃ (s : State) (i : Instr) (w : Word), s.faulted = false ∧ s.pc.toNat = 4094 ∧
      w = wordOfBytes (s.readByte s.pc.toNat) (s.readByte (s.pc.toNat + 1)) ∧
      decodeWord w = some i ∧ i.WellFormed :=
  ⟨(State.reset.setPc 4094).placeWord 0x1200, .jp 0x200, 0x1200, by decide, by decide, by decide,
   by decide, by unfold Instr.WellFormed; decide⟩

/-- Both clauses: a recognized and an unrecognized word at the last word of memory. -/
theorem witness_PcAdvancesBeforeDecode :
    (∃ s : State, s.faulted = false ∧ s.pc.toNat = 4094 ∧ decodeWord s.fetchWord = none) ∧
    ∃ (s : State) (i : Instr), s.faulted = false ∧ s.pc.toNat = 4094 ∧
      decodeWord s.fetchWord = some i :=
  ⟨⟨State.reset.setPc 4094, by decide⟩, (State.reset.setPc 4094).placeWord 0x1200, .jp 0x200, by decide⟩

theorem witness_FetchedWordIsLatched :
    ∃ s t : State, s.faulted = false ∧ s.pc.toNat ≤ 4094 ∧ step s = .next t :=
  ⟨start 0x6A2C, nextOf (step (start 0x6A2C)), by decide, by decide, rfl⟩

/-- A timer loaded with 0 and with 1, and the one read. -/
theorem witness_TimersStepAfterInstruction :
    ∀ p ∈ ([(start 0xF615, .ldDTVx 6), ((start 0xF618).setReg 6 1, .ldSTVx 6),
        ((start 0xF407).setDelay 1, .ldVxDT 4)] : List (State × Instr)),
      p.1.faulted = false ∧ p.1.pc.toNat ≤ 4094 ∧ decodeWord p.1.fetchWord = some p.2 ∧
      ∃ t, exec p.2 ((p.1.latchOpcode p.1.fetchWord).setPc (p.1.pc + 2)) = .next t ∧
        t.faulted = false := by
  intro p hp
  simp only [List.mem_cons, List.not_mem_nil, or_false] at hp
  obtain rfl | rfl | rfl := hp <;> exact ⟨by decide, by decide, by decide, _, rfl, by decide⟩

theorem witness_FaultedTickDoesNothing : ((start 0x6A2C).raise .decodeFailure).faulted = true := by
  decide

/-- Both clauses: a fetch fault and another. -/
theorem witness_FaultingTickChangesLittle :
    (∃ s t : State, s.faulted = false ∧ step s = .next t ∧ t.faulted = true ∧ s.pc.toNat = 4095) ∧
    ∃ s t : State, s.faulted = false ∧ step s = .next t ∧ t.faulted = true ∧ s.pc.toNat = 4094 :=
  ⟨⟨State.reset.setPc 4095, _, by decide, rfl, by decide, by decide⟩,
   State.reset.setPc 4094, _, by decide, rfl, by decide, by decide⟩

theorem witness_FetchOutsideMemoryRaises :
    (State.reset.setPc 4095).faulted = false ∧ 4094 < (State.reset.setPc 4095).pc.toNat ∧
    4094 < (State.reset.setPc 0x10FE).pc.toNat := by decide

theorem witness_UnrecognizedWordRaises :
    (start 0x5001).faulted = false ∧ (start 0x5001).pc.toNat ≤ 4094 ∧
    decodeWord (start 0x5001).fetchWord = none := by decide

/-- An instruction of each kind that can raise a condition, on either side of its boundary. -/
theorem witness_FatalConditionsAreTheTable :
    fatalCondition (withSp 0 State.reset) .ret = some .stackUnderflow ∧
    fatalCondition (withSp 1 State.reset) .ret = none ∧
    fatalCondition (withSp 16 State.reset) (.call 0) = some .stackOverflow ∧
    fatalCondition (withSp 15 State.reset) (.call 0) = none ∧
    fatalCondition (State.reset.setIndex 4094) (.ldBVx 0) = some (.boundsViolation .mem 4096) ∧
    fatalCondition (State.reset.setIndex 4093) (.ldBVx 0) = none ∧
    fatalCondition (State.reset.setIndex 4081) (.ldMemVx 15) = some (.boundsViolation .mem 4096) ∧
    fatalCondition (State.reset.setIndex 4080) (.ldVxMem 15) = none ∧
    fatalCondition (State.reset.setIndex 0xFFFF) (.drw 0 0 1) = some (.boundsViolation .mem 0xFFFF) ∧
    fatalCondition (State.reset.setIndex 0xFFFF) (.drw 0 0 0) = none ∧
    fatalCondition (State.reset.setReg 0 16) (.skp 0) = some (.boundsViolation .key 16) ∧
    fatalCondition (State.reset.setReg 0 15) (.sknp 0) = none ∧
    fatalCondition State.reset .cls = none := by decide

theorem witness_OnlyNamedPartsWritten :
    ∃ (i : Instr) (s t : State), MemCanonical s ∧ fatalCondition s i = none ∧ exec i s = .next t :=
  ⟨.ldMemVx 0, atEnd 0xF055 1, _, by unfold MemCanonical; decide, by decide, rfl⟩

theorem witness_FlagWritersAreSix :
    ∃ (i : Instr) (s t : State), exec i s = .next t ∧ t.reg 15 ≠ s.reg 15 :=
  ⟨.shr 3 0, (start 0x8306).setReg 3 5, _, rfl, by decide⟩

/-- Every clause: an instruction that changes the element. -/
theorem witness_SpecialStateWriters :
    (∃ i s t, exec i s = .next t ∧ t.I ≠ s.I) ∧ (∃ i s t, exec i s = .next t ∧ t.sp ≠ s.sp) ∧
    (∃ i s t, exec i s = .next t ∧ ∃ k, t.slot k ≠ s.slot k) ∧
    (∃ i s t, exec i s = .next t ∧ t.DT ≠ s.DT) ∧ (∃ i s t, exec i s = .next t ∧ t.ST ≠ s.ST) ∧
    (∃ i s t, exec i s = .next t ∧ ∃ r c, t.cell r c ≠ s.cell r c) ∧
    (∃ i s t, exec i s = .next t ∧ ∃ a, t.readByte a ≠ s.readByte a) :=
  ⟨⟨.ldI 1, State.reset, _, rfl, by decide⟩, ⟨.ret, withSp 16 State.reset, _, rfl, by decide⟩,
   ⟨.call 0, State.reset, _, rfl, 0, by decide⟩,
   ⟨.ldDTVx 0, State.reset.setReg 0 1, _, rfl, by decide⟩,
   ⟨.ldSTVx 0, State.reset.setReg 0 1, _, rfl, by decide⟩,
   ⟨.cls, State.reset.setCell 31 63 true, _, rfl, 31, 63, by decide⟩,
   ⟨.ldMemVx 0, (State.reset.setReg 0 1).setIndex 4095, _, rfl, 4095, by decide⟩⟩

/-- Both clauses, and the fullest stack. -/
theorem witness_ReturnPopsProgramCounter :
    (withSp 0 State.reset).sp.val = 0 ∧ 0 < (withSp 1 State.reset).sp.val ∧
    0 < (withSp 16 State.reset).sp.val := by decide

theorem witness_CallPushesAndJumps :
    (withSp 16 State.reset).sp.val = 16 ∧ (withSp 15 State.reset).sp.val < 16 := by decide

/-- As many calls as an empty stack has room for, and one on the last slot. -/
theorem witness_CallsThenReturnsRestore :
    State.reset.sp.val + (List.replicate 16 (0x300 : Addr12)).length ≤ 16 ∧
    (withSp 15 State.reset).sp.val + [(0x300 : Addr12)].length ≤ 16 := by decide

/-- A skip taken and one not taken, at the last word of memory (vector F22). -/
theorem witness_SkipMovesFourInAll :
    ∀ v ∈ ([0, 1] : List Byte), ∃ s t : State, s.faulted = false ∧ s.pc.toNat = 4094 ∧ s.reg 0 = v ∧
      decodeWord s.fetchWord = some (.seImm 0 0) ∧ step s = .next t := by
  intro v hv
  simp only [List.mem_cons, List.not_mem_nil, or_false] at hv
  obtain rfl | rfl := hv
  · exact ⟨((State.reset.setPc 4094).placeWord 0x3000).setReg 0 0, _, by decide, by decide, by decide,
      by decide, rfl⟩
  · exact ⟨((State.reset.setPc 4094).placeWord 0x3000).setReg 0 1, _, by decide, by decide, by decide,
      by decide, rfl⟩

/-- The complement of 5, and of 0, which is 0. -/
theorem witness_LoadAndAddImmediate :
    (251#8).toNat = (256 - (5#8).toNat) % 256 ∧ (0#8).toNat = (256 - (0#8).toNat) % 256 := by decide

theorem witness_AddSubtractShift : (14 : Reg) ≠ 15 ∧ (15 : Reg) = 15 := by decide

/-- Both clauses, at the highest base that succeeds and the lowest that does not. -/
theorem witness_StoreDecimalDigits :
    (State.reset.setIndex 4093).I.toNat + 2 ≤ 4095 ∧ MemCanonical (State.reset.setIndex 4093) ∧
    (State.reset.setIndex 4094).I.toNat + 2 > 4095 :=
  ⟨by decide, by unfold MemCanonical; decide, by decide⟩

/-- Both clauses for one register and for sixteen. -/
theorem witness_BlockStoreAndLoad :
    (State.reset.setIndex 4095).I.toNat + (0 : Reg).val ≤ 4095 ∧
    (State.reset.setIndex 4080).I.toNat + (15 : Reg).val ≤ 4095 ∧
    MemCanonical (State.reset.setIndex 4080) ∧
    (State.reset.setIndex 4096).I.toNat + (0 : Reg).val > 4095 ∧
    (State.reset.setIndex 4081).I.toNat + (15 : Reg).val > 4095 :=
  ⟨by decide, by decide, by unfold MemCanonical; decide, by decide, by decide⟩

/-- The later state: the registers are cleared between the store and the load, as in S6. -/
theorem witness_BlockStoreThenLoad :
    ∃ s t t' : State, MemCanonical s ∧ s.I.toNat + (2 : Reg).val ≤ 4095 ∧
      exec (.ldMemVx 2) s = .next t ∧ t'.I = t.I ∧
      (∀ k ≤ (2 : Reg).val, t'.readByte (t.I.toNat + k) = t.readByte (t.I.toNat + k)) ∧
      t'.reg 0 ≠ s.reg 0 :=
  ⟨(withRegs [0x11, 0x22, 0x33] State.reset).setIndex 0x400, _,
   withRegs [0, 0, 0]
    (nextOf (exec (.ldMemVx 2) ((withRegs [0x11, 0x22, 0x33] State.reset).setIndex 0x400))),
   by unfold MemCanonical; decide, by decide, rfl, by decide, by decide, by decide⟩

/-- As in program P7: the store puts a word right behind itself. -/
theorem witness_StoresAreFetchedAtOnce :
    ∃ s t : State, s.faulted = false ∧ s.pc.toNat ≤ 4094 ∧ MemCanonical s ∧
      decodeWord s.fetchWord = some (.ldMemVx 1) ∧ s.I.toNat + (1 : Reg).val ≤ 4095 ∧
      (0 : Reg).val < (1 : Reg).val ∧ s.pc.toNat + 2 = s.I.toNat + (0 : Reg).val ∧ step s = .next t :=
  ⟨(withRegs [0x12, 0x08] (start 0xF155)).setIndex 0x202, _, by decide, by decide,
   by unfold MemCanonical; decide, by decide, by decide, by decide, by decide, rfl⟩

/-- Both clauses at their boundaries, a pixel on a lit cell, and pixels on unlit cells only. -/
theorem witness_DrawSprite :
    ((0 : Fin 16).val = 0 ∨ (State.reset.setIndex 0xFFFF).I.toNat + (0 : Fin 16).val - 1 ≤ 4095) ∧
    (State.reset.setIndex 4095).I.toNat + (1 : Fin 16).val - 1 ≤ 4095 ∧
    ((2 : Fin 16).val > 0 ∧ (State.reset.setIndex 4095).I.toNat + (2 : Fin 16).val - 1 > 4095) ∧
    (∃ (s : State) (r : Fin 32) (c : Fin 64),
      SpriteCovers s (s.reg 1) (s.reg 2) 1 r c ∧ s.cell r c = true) ∧
    (∃ (s : State), (∃ r c, SpriteCovers s (s.reg 1) (s.reg 2) 1 r c) ∧
      ∀ r c, SpriteCovers s (s.reg 1) (s.reg 2) 1 r c → s.cell r c = false) :=
  ⟨by decide, by decide, by decide,
   ⟨(State.reset.writeByte 0 0x80).setCell 0 0 true, 0, 0,
     ⟨0, by decide, 0, by decide, by decide, by decide, by decide⟩, by decide⟩,
   State.reset.writeByte 0 0x80,
   ⟨0, 0, 0, by decide, 0, by decide, by decide, by decide, by decide⟩,
   fun r c _ => by simp [State.cell, State.writeByte, State.reset]⟩

/-- A first draw on a clear screen that lights a cell. -/
theorem witness_DrawTwiceRestoresScreen :
    ∃ s t : State, exec (.drw 1 2 1) s = .next t ∧
      ((1 : Fin 16).val = 0 ∨ s.I.toNat + (1 : Fin 16).val - 1 ≤ 4095) ∧ t.reg 1 = s.reg 1 ∧
      t.reg 2 = s.reg 2 ∧ (∀ r c, s.cell r c = false) ∧ ∃ r c, t.cell r c = true :=
  ⟨State.reset.writeByte 0 0x80, _, rfl, by decide, by decide, by decide,
   fun r c => by simp [State.cell, State.writeByte, State.reset], 0, 0, by decide⟩

/-- Both clauses: the last key and the first index that is none; the key up and down. -/
theorem witness_KeySkips :
    ((State.reset.setReg 3 15).reg 3).toNat = (15 : Fin 16).val ∧
    (pressed [15] State.reset).keyDown 15 = true ∧ State.reset.keyDown 15 = false ∧
    ((State.reset.setReg 3 16).reg 3).toNat > 15 := by decide

theorem witness_TimerLoads : State.reset.faulted = false := by decide

/-- Every clause: key 14 the lowest pressed, key 15 alone, and the whole tick at the last word. -/
theorem witness_WaitForKey :
    ((14 : Fin 16).val < 15 ∧ (pressed [14, 15] State.reset).keyDown 14 = true ∧
      ∀ j : Fin 16, j.val < (14 : Fin 16).val → (pressed [14, 15] State.reset).keyDown j = false) ∧
    (∀ k : Fin 16, k.val < 15 → (pressed [15] State.reset).keyDown k = false) ∧
    ∃ s : State, (∀ k : Fin 16, k.val < 15 → s.keyDown k = false) ∧ s.keyDown 15 = true ∧
      s.faulted = false ∧ s.pc.toNat = 4094 ∧ decodeWord s.fetchWord = some (.ldVxK 5) :=
  ⟨by decide, by decide, pressed [15] ((State.reset.setPc 4094).placeWord 0xF50A), by decide⟩

/-- Vector F6. -/
theorem witness_SelfJumpStaysPut : (start 0x1200).faulted = false ∧ AtSelfJump (start 0x1200) :=
  ⟨by decide, by unfold AtSelfJump; decide⟩

/-- A state that meets the invariant and has a next state: the one right before a call. -/
theorem witness_Invariants :
    ∃ s t : State, MemCanonical s ∧ LatchCoherent s ∧ PcInRange s ∧ step s = .next t :=
  ⟨start 0x2300, _, by unfold MemCanonical; decide,
   ⟨by decide, fun r h => by
      have hn : (start 0x2300).faultRec = none := by decide
      rw [hn] at h
      cases h⟩,
   by unfold PcInRange; decide, rfl⟩

/-- A faulted state that meets the invariant. -/
theorem witness_LatchStaysCoherent_faulted :
    ∃ s t : State, s.faulted = true ∧ LatchCoherent s ∧ step s = .next t :=
  ⟨State.reset.raise .decodeFailure, _, by decide,
   ⟨by decide, fun r h => by cases h; exact ⟨rfl, rfl⟩⟩, rfl⟩

/-- A load at the last address, a key, two ticks and a reset. -/
theorem witness_PortRunsKeepInvariant :
    ∃ v, portRun [.load 4095 0x5A, .keyIn 15 true, .tick, .tick, .reset] ⟨false, State.reset⟩ = .next v :=
  ⟨_, rfl⟩

theorem witness_BootInstallsFontAndImage :
    (List.replicate 3584 (0xFF : Byte)).length ≤ 3584 ∧ ([] : List Byte).length ≤ 3584 ∧
    79 < 80 ∧ 80 ≤ 511 ∧ (511 < 0x200 ∨ 0x200 + ([] : List Byte).length ≤ 511) :=
  ⟨List.length_replicate.le, by decide, by decide, by decide, by decide⟩

theorem witness_InputPorts :
    MemCanonical State.reset ∧ (4095 < 4096) ∧ (4096 ≤ 4096) ∧
    3584 < (List.replicate 3585 (0xFF : Byte)).length :=
  ⟨by unfold MemCanonical; decide, by decide, by decide, by rw [List.length_replicate]; decide⟩

theorem witness_OutsideInputsReadByFour :
    (∀ x, Instr.cls ≠ .skp x ∧ Instr.cls ≠ .sknp x ∧ Instr.cls ≠ .ldVxK x) ∧
    ∀ x kk, Instr.cls ≠ .rnd x kk := by
  simp

theorem witness_ScreenReadByDrawOnly : Instr.ret ≠ .cls ∧ ∀ x y n, Instr.ret ≠ .drw x y n := by
  simp

/-- A reset inside a run does not rewind the random-byte input: two `RND`, one before it and one after. -/
theorem test_reset_keeps_random_input :
    (match portRun [.load 0x200 0xC1, .tick, .reset, .load 0x200 0xC1, .tick] ⟨false, State.reset⟩ with
      | .next v => v.core.randDraws == 2 && v.core.reg 15 == 0#8
      | .fault _ => false
      | .refused _ => false) = true := by decide

/-- Program P5 cut to its wait and its jump: the run is over at the jump to itself, once a key is pressed. -/
theorem test_run_until_self_jump :
    nextHas (runUntil selfJumpEnd [[(15, true)], [(9, true), (4, true)], [], []]
        (State.reset.loadBytes 0x200 [0xF5, 0x0A, 0x12, 0x02]))
      (fun t => t.reg 5 == 4#8 && t.pc == 0x202#16 && t.lastOpcode == 0xF50A#16) = true := by decide

/-- A boundary of each kind for `RunsEndByParameter`: over at once, and the inputs used up. -/
theorem witness_RunsEndByParameter :
    runOver selfJumpEnd (start 0x1200) = true ∧
    nextHas (runUntil selfJumpEnd [[]] (start 0x6A2C)) (fun t => !runOver selfJumpEnd t) = true := by
  decide

end Sys2Proof.Tests
end

section
/-! PROOFS. What a load of consecutive bytes does to memory and leaves unchanged, and from it the state the first
tick sees (10_state.md rule R43). -/

namespace Sys2Proof.Machine

/-! ### A load of consecutive bytes -/

/-- A load of bytes changes nothing but memory. -/
theorem State.loadBytes_eq (s : State) (base : Nat) (bs : List Byte) :
    s.loadBytes base bs = { s with mem := (s.loadBytes base bs).mem } := by
  induction bs generalizing s base with
  | nil => rfl
  | cons b bs ih => exact ih (s.writeByte base b) (base + 1)

theorem State.wf_loadBytes {s : State} (hs : s.mem.wf = true) {base : Nat} {bs : List Byte}
    (hfit : base + bs.length ≤ 4096) : (s.loadBytes base bs).mem.wf = true := by
  induction bs generalizing s base with
  | nil => exact hs
  | cons b bs ih =>
    rw [List.length_cons] at hfit
    exact ih (wf_writeByte s hs b (by omega)) (by omega)

/-- Memory after a load: the loaded bytes from `base` on, every other address as before. -/
theorem State.readByte_loadBytes {s : State} (hs : s.mem.wf = true) {base : Nat} {bs : List Byte}
    (hfit : base + bs.length ≤ 4096) (j : Nat) :
    (s.loadBytes base bs).readByte j =
      if h : base ≤ j ∧ j < base + bs.length then bs[j - base] else s.readByte j := by
  induction bs generalizing s base with
  | nil => rw [dif_neg (by rw [List.length_nil]; omega)]; rfl
  | cons b bs ih =>
    simp only [List.length_cons] at hfit ⊢
    rw [loadBytes, ih (wf_writeByte s hs b (by omega)) (by omega), readByte_writeByte s hs]
    rcases Nat.lt_trichotomy j base with hlt | rfl | hgt
    · rw [dif_neg (by omega), dif_neg (by omega), if_neg (by omega)]
    · rw [dif_neg (by omega), dif_pos (by omega), if_pos rfl]
      simp
    · rw [if_neg (by omega)]
      have hidx : j - base = j - (base + 1) + 1 := by omega
      by_cases hin : j < base + 1 + bs.length
      · rw [dif_pos (by omega), dif_pos (by omega)]
        simp [hidx]
      · rw [dif_neg (by omega), dif_neg (by omega)]

/-! ### Frames of what writes memory only -/

/-- Two states that differ in memory only differ only in bytes at addresses of cells, when both memories are
canonical: from 4096 up both read 0. -/
theorem onlyChanges_cells {s t : State} (hs : s.mem.wf = true) (ht : t.mem.wf = true)
    (heq : t = { s with mem := t.mem }) :
    OnlyChanges (fun p => ∃ a < 4096, p = .byte a) s t := by
  intro p hp
  cases p with
  | byte a =>
    have ha : 4096 ≤ a := Nat.le_of_not_lt fun hlt => hp ⟨a, hlt, rfl⟩
    exact (Memory.read_above ht ha).trans (Memory.read_above hs ha).symm
  | _ => rw [heq]; rfl

/-! ### Boot -/

/-- An image that fits boots to the reset state with the font loaded at `FONT_BASE`, then the image at
`PROG_START`. -/
theorem boot_eq (font : Vector Byte 80) {image : List Byte} (hlen : image.length ≤ 3584) :
    boot font image = .next ((State.reset.loadBytes 0 font.toList).loadBytes 0x200 image) :=
  if_pos hlen

/-- The memory of the booted state, address by address. -/
theorem readByte_booted (font : Vector Byte 80) {image : List Byte} (hlen : image.length ≤ 3584) (a : Nat) :
    ((State.reset.loadBytes 0 font.toList).loadBytes 0x200 image).readByte a =
      if h : 0x200 ≤ a ∧ a < 0x200 + image.length then image[a - 0x200]
      else if h : a < 80 then font[a] else 0 := by
  have hfont : 0 + font.toList.length ≤ 4096 := by simp
  rw [State.readByte_loadBytes (State.wf_loadBytes rfl hfont) (by omega),
    State.readByte_loadBytes rfl hfont]
  have hreset : State.reset.readByte a = 0 := rfl
  simp [hreset]

/-- Settles O52: the font and the image are two loads into disjoint ranges of the empty memory of reset. -/
theorem bootInstallsFontAndImage : Obligations.BootInstallsFontAndImage := by
  intro font image hlen
  refine ⟨_, boot_eq font hlen, fun a ha => ?font, fun j hj => ?image, fun a hlow hout => ?rest, ?frame⟩
  case font => rw [readByte_booted font hlen, dif_neg (by omega), dif_pos ha]
  case image =>
    rw [readByte_booted font hlen, dif_pos ⟨by omega, by omega⟩]
    simp
  case rest => rw [readByte_booted font hlen, dif_neg (by omega), dif_neg (by omega)]
  case frame =>
    have hwf : (State.reset.loadBytes 0 font.toList).mem.wf = true := State.wf_loadBytes rfl (by simp)
    refine onlyChanges_cells rfl (State.wf_loadBytes hwf (by omega)) ?_
    rw [State.loadBytes_eq, State.loadBytes_eq State.reset]

end Sys2Proof.Machine
end

section
/-! PROOFS. A tick that fetched: what the step is when the word is recognized and when it is not, the state the
instruction executes in, and the timers' step after it (40_cycle_driver.md rules R122 to R125). -/

namespace Sys2Proof.Machine

/-! ### The step of a tick that fetched -/

section
variable {s : State} (hf : s.faulted = false) (hp : s.pc.toNat ≤ 4094)
include hf hp

/-- An unrecognized word raises `DecodeFailure` in the state after the fetch. -/
theorem step_of_unrecognized (hd : decodeWord s.fetchWord = none) :
    step s = .next (s.fetched.raise .decodeFailure) := by
  obtain ⟨hf', -⟩ | ⟨-, hp', -⟩ | ⟨-, -, -, hstep⟩ | ⟨-, -, i, hd', -⟩ := step_cases s
  · simp [hf] at hf'
  · omega
  · exact hstep
  · simp [hd] at hd'

/-- A recognized word's instruction executes in the state after the fetch, and then the tick ends. -/
theorem step_of_recognized {i : Instr} (hd : decodeWord s.fetchWord = some i) :
    step s = finishTick (exec i s.fetched) := by
  obtain ⟨hf', -⟩ | ⟨-, hp', -⟩ | ⟨-, -, hd', -⟩ | ⟨-, -, j, hd', hstep⟩ := step_cases s
  · simp [hf] at hf'
  · omega
  · simp [hd] at hd'
  · obtain rfl : i = j := Option.some.inj (hd.symm.trans hd')
    exact hstep

end

/-! ### The state after the fetch -/

@[simp] theorem State.fetched_pc (s : State) : s.fetched.pc = s.pc + 2 := rfl
@[simp] theorem State.fetched_DT (s : State) : s.fetched.DT = s.DT := rfl
@[simp] theorem State.fetched_reg (s : State) (q : Reg) : s.fetched.reg q = s.reg q := rfl

theorem State.fetched_eq (s : State) :
    s.fetched = (s.latchOpcode s.fetchWord).setPc (s.pc + 2) := rfl

/-- Fetching changes nothing but `pc` and the last opcode. -/
theorem onlyChanges_fetched (s : State) : OnlyChanges (· ∈ [.pc, .lastOpcode]) s s.fetched := by
  intro p hp
  cases p with
  | pc | lastOpcode => simp at hp
  | _ => rfl

/-- The advance stays in 16 bits where a word can be fetched. -/
theorem toNat_add_two {pc : Word} (hp : pc.toNat ≤ 4094) : (pc + 2).toNat = pc.toNat + 2 := by
  bv_omega

/-- Settles O7: either way the tick goes on from the state after the fetch, and raising keeps its `pc`. -/
theorem pcAdvancesBeforeDecode : Obligations.PcAdvancesBeforeDecode := by
  intro s hf hp
  refine ⟨toNat_add_two hp, fun hd => ?unrecognized, fun i hd => ?recognized⟩
  case unrecognized => exact ⟨_, step_of_unrecognized hf hp hd, by simp⟩
  case recognized =>
    exact ⟨s.fetched, s.fetched_pc, onlyChanges_fetched s, step_of_recognized hf hp hd⟩

/-! ### The timers -/

/-- The timers' step changes nothing but the timers. -/
theorem onlyChanges_runTimers (t : State) : OnlyChanges (· ∈ [.delay, .sound]) t t.runTimers := by
  intro p hp
  rw [t.runTimers_eq]
  cases p with
  | delay | sound => simp at hp
  | _ => rfl

@[simp] theorem State.runTimers_reg (t : State) (q : Reg) : t.runTimers.reg q = t.reg q :=
  onlyChanges_runTimers t (.reg q) (by simp)

section
variable {t : State} (ht : t.faulted = false)
include ht

theorem State.toNat_runTimers_DT : t.runTimers.DT.toNat = t.DT.toNat - 1 := by
  rw [runTimers_of_running t ht, timerPred_toNat]

theorem State.toNat_runTimers_ST : t.runTimers.ST.toNat = t.ST.toNat - 1 := by
  rw [runTimers_of_running t ht, timerPred_toNat]

end

/-- `LD DT, Vx` leaves the register's value in `DT`. -/
theorem DT_of_exec_ldDTVx {x : Reg} {s t : State} (h : exec (.ldDTVx x) s = .next t) :
    t.DT = s.reg x := by
  cases h; rfl

/-- `LD ST, Vx` leaves the register's value in `ST`. -/
theorem ST_of_exec_ldSTVx {x : Reg} {s t : State} (h : exec (.ldSTVx x) s = .next t) :
    t.ST = s.reg x := by
  cases h; rfl

/-- `LD Vx, DT` leaves the value of `DT` in the register. -/
theorem reg_of_exec_ldVxDT {x : Reg} {s t : State} (h : exec (.ldVxDT x) s = .next t) :
    t.reg x = s.DT := by
  cases h
  rw [State.reg_setReg, if_pos rfl]

/-- Settles O9: the tick ends with the timers' step on what the instruction left, loaded timers included. -/
theorem timersStepAfterInstruction : Obligations.TimersStepAfterInstruction := by
  intro s t i hf hp hd hexec ht
  rw [← s.fetched_eq] at hexec
  have hstep : step s = .next t.runTimers := by
    rw [step_of_recognized hf hp hd, hexec, finishTick]
  refine ⟨t.runTimers, hstep, State.toNat_runTimers_DT ht, State.toNat_runTimers_ST ht,
    onlyChanges_runTimers t, fun x hi => ?ldDT, fun x hi => ?ldST, fun x hi => ?ldVx⟩ <;> subst hi
  case ldDT => rw [State.toNat_runTimers_DT ht, DT_of_exec_ldDTVx hexec, State.fetched_reg]
  case ldST => rw [State.toNat_runTimers_ST ht, ST_of_exec_ldSTVx hexec, State.fetched_reg]
  case ldVx => rw [State.runTimers_reg, reg_of_exec_ldVxDT hexec, State.fetched_DT]

end Sys2Proof.Machine
end

section
/-! PROOFS. What each control-transfer meaning does to `pc`, `sp` and the call stack, and what it leaves
unchanged (41_flow.md rules R140 to R147). -/

namespace Sys2Proof.Machine

/-! ### Frames of the shared operations -/

/-- Setting `pc` changes nothing but `pc`. -/
theorem onlyChanges_setPc (s : State) (w : Word) : OnlyChanges (· = .pc) s (s.setPc w) := by
  intro p hp
  cases p with
  | pc => exact absurd rfl hp
  | _ => rfl

/-- A return changes nothing but `sp` and `pc`: the slot it reads keeps its entry. -/
theorem onlyChanges_popPc (s : State) (h : 0 < s.sp.val) :
    OnlyChanges (· ∈ [.sp, .pc]) s (s.popPc h) := by
  intro p hp
  cases p with
  | sp | pc => simp at hp
  | _ => rfl

/-- A push and a jump change nothing but `sp`, `pc` and the slot at the old `sp`. -/
theorem onlyChanges_push_setPc (s : State) (w target : Word) (h : s.sp.val < 16) :
    OnlyChanges (fun p => p = .sp ∨ p = .pc ∨ ∃ k : Fin 16, k.val = s.sp.val ∧ p = .slot k) s
      ((s.push w h).setPc target) := by
  intro p hp
  cases p with
  | sp | pc => simp at hp
  | slot k =>
    have hk : k.val ≠ s.sp.val := fun hk => hp (.inr (.inr ⟨k, hk, rfl⟩))
    exact (s.slot_push w h k).trans (if_neg hk)
  | _ => rfl

/-- The model's `raise` is the raising the spec describes (R11, R220). -/
theorem raises_raise (k : FatalKind) (s : State) : Raises k s (s.raise k) := by
  refine ⟨s.raise_faulted k, s.raise_faultRec k, fun p hp => ?_⟩
  cases p with
  | faulted | faultRec => simp at hp
  | _ => rfl

/-! ### The immediate address (R93) -/

@[simp] theorem toNat_immAddr (nnn : Addr12) : (immAddr nnn).toNat = nnn.toNat := by
  rw [immAddr, BitVec.toNat_setWidth_of_le (by decide)]

/-- An address plus a register fits 16 bits: the sum is at most `0xFFF + 0xFF`. -/
theorem toNat_immAddr_add_regWide (nnn : Addr12) (s : State) (r : Reg) :
    (immAddr nnn + s.regWide r).toNat = nnn.toNat + (s.reg r).toNat := by
  have hwide : (s.regWide r).toNat = (s.reg r).toNat := BitVec.toNat_setWidth_of_le (by decide)
  have haddr : nnn.toNat < 4096 := nnn.isLt
  have hreg : (s.reg r).toNat < 256 := (s.reg r).isLt
  rw [BitVec.toNat_add, toNat_immAddr, hwide]
  omega

/-! ### Return and call (R140, R142, R222, R223) -/

theorem exec_ret_of_empty {s : State} (h : s.sp.val = 0) :
    exec .ret s = .next (s.raise .stackUnderflow) :=
  dif_neg (by omega)

theorem exec_ret_of_pos {s : State} (h : 0 < s.sp.val) : exec .ret s = .next (s.popPc h) :=
  dif_pos h

theorem exec_call_of_full {nnn : Addr12} {s : State} (h : s.sp.val = 16) :
    exec (.call nnn) s = .next (s.raise .stackOverflow) :=
  dif_neg (by omega)

theorem exec_call_of_room {nnn : Addr12} {s : State} (h : s.sp.val < 16) :
    exec (.call nnn) s = .next ((s.push s.pc h).setPc (immAddr nnn)) :=
  dif_pos h

/-- Settles O19: an empty stack raises, any other is popped. -/
theorem returnPopsProgramCounter : Obligations.ReturnPopsProgramCounter := by
  refine fun s => ⟨fun hempty => ?underflow, fun hpos => ?pop⟩
  case underflow => exact ⟨_, exec_ret_of_empty hempty, raises_raise _ s⟩
  case pop =>
    refine ⟨_, exec_ret_of_pos hpos, ?sp, fun k hk => ?pc, onlyChanges_popPc s hpos⟩
    case sp =>
      rw [State.popPc_sp]
      exact Nat.sub_add_cancel hpos
    case pc =>
      rw [State.popPc_pc]
      exact congrArg s.slot (Fin.ext hk.symm)

/-- Settles O21: a full stack raises, any other has the slot at the old `sp` written. -/
theorem callPushesAndJumps : Obligations.CallPushesAndJumps := by
  refine fun nnn s => ⟨fun hfull => ?overflow, fun hroom => ?push⟩
  case overflow => exact ⟨_, exec_call_of_full hfull, raises_raise _ s⟩
  case push =>
    refine ⟨_, exec_call_of_room hroom, rfl, fun k hk => ?slot, toNat_immAddr nnn,
      onlyChanges_push_setPc s s.pc (immAddr nnn) hroom⟩
    case slot => rw [State.setPc_slot, State.slot_push, if_pos hk]

/-! ### Jumps (R141, R147) -/

theorem exec_jp (nnn : Addr12) (s : State) : exec (.jp nnn) s = .next (s.setPc (immAddr nnn)) := rfl

theorem exec_jpV0 (nnn : Addr12) (s : State) :
    exec (.jpV0 nnn) s = .next (s.setPc (immAddr nnn + s.regWide 0)) := rfl

/-- Settles O20: the jump is one write of `pc`. -/
theorem jumpSetsProgramCounter : Obligations.JumpSetsProgramCounter := fun nnn s =>
  ⟨_, exec_jp nnn s, toNat_immAddr nnn, onlyChanges_setPc s _⟩

/-- Settles O25: the sum has no room to wrap. -/
theorem jumpWithOffset : Obligations.JumpWithOffset := fun nnn s =>
  ⟨_, exec_jpV0 nnn s, toNat_immAddr_add_regWide nnn s 0, onlyChanges_setPc s _⟩

/-! ### Skips (R143 to R146) -/

theorem State.skipIf_pc (s : State) (cond : Bool) :
    (s.skipIf cond).pc = if cond then s.pc + 2 else s.pc := by
  cases cond <;> rfl

/-- A skip, taken or not, changes nothing but `pc`. -/
theorem onlyChanges_skipIf (s : State) (cond : Bool) : OnlyChanges (· = .pc) s (s.skipIf cond) := by
  cases cond with
  | true => exact onlyChanges_setPc s (s.pc + 2#16)
  | false => exact fun p _ => by cases p <;> rfl

/-- What an instruction that skips on a test does, the test read as the proposition it decides. -/
theorem exec_skips {i : Instr} {s : State} {cond : Bool} {P : Prop} [Decidable P]
    (hexec : exec i s = .next (s.skipIf cond)) (hcond : cond = true ↔ P) :
    ∃ t, exec i s = .next t ∧ OnlyChanges (· = .pc) s t ∧ t.pc = if P then s.pc + 2 else s.pc := by
  refine ⟨_, hexec, onlyChanges_skipIf s cond, ?_⟩
  rw [State.skipIf_pc]
  exact if_congr hcond rfl rfl

theorem beq_iff_toNat_eq (a b : Byte) : (a == b) = true ↔ a.toNat = b.toNat := by
  rw [beq_iff_eq, BitVec.toNat_inj]

theorem bne_iff_toNat_ne (a b : Byte) : (a != b) = true ↔ a.toNat ≠ b.toNat := by
  rw [bne_iff_ne, Ne, Ne, BitVec.toNat_inj]

/-- Settles O23: the four forms are one skip on four tests. -/
theorem compareAndSkip : Obligations.CompareAndSkip := fun _ _ _ _ =>
  ⟨exec_skips rfl (beq_iff_toNat_eq _ _), exec_skips rfl (bne_iff_toNat_ne _ _),
   exec_skips rfl (beq_iff_toNat_eq _ _), exec_skips rfl (bne_iff_toNat_ne _ _)⟩

end Sys2Proof.Machine
end

section
/-! PROOFS. The meanings of 42_alu.md that write one register and no flag: what the register then holds and what
stays unchanged (rules R160 to R165). -/

namespace Sys2Proof.Machine

/-! ### A write of one register -/

theorem State.reg_setReg_same (s : State) (x : Reg) (v : Byte) : (s.setReg x v).reg x = v := by
  rw [reg_setReg, if_pos rfl]

/-- Setting a register changes nothing but that register. -/
theorem onlyChanges_setReg (s : State) (x : Reg) (v : Byte) :
    OnlyChanges (· = .reg x) s (s.setReg x v) := by
  intro p hp
  cases p with
  | reg q =>
    have hq : q ≠ x := fun hq => hp (congrArg Part.reg hq)
    exact (s.reg_setReg x q v).trans (if_neg hq)
  | _ => rfl

/-! ### Loads and the immediate sum (R160, R161, R162) -/

theorem exec_ldImm (x : Reg) (kk : Byte) (s : State) :
    exec (.ldImm x kk) s = .next (s.setReg x kk) := rfl

theorem exec_addImm (x : Reg) (kk : Byte) (s : State) :
    exec (.addImm x kk) s = .next (s.setReg x (s.reg x + kk)) := rfl

theorem exec_ldReg (x y : Reg) (s : State) :
    exec (.ldReg x y) s = .next (s.setReg x (s.reg y)) := rfl

/-- The byte that complements `kk` to 256 is its negative. -/
theorem eq_neg_of_toNat_complement {kk kk' : Byte} (h : kk'.toNat = (256 - kk.toNat) % 256) :
    kk' = -kk :=
  BitVec.eq_of_toNat_eq (h.trans (BitVec.toNat_neg kk).symm)

/-- Settles O26: both are one write of the register, and the complement is the negative of the byte added. -/
theorem loadAndAddImmediate : Obligations.LoadAndAddImmediate := by
  refine fun x kk s =>
    ⟨?load, _, exec_addImm x kk s, ?sum, onlyChanges_setReg s x _, fun kk' hkk' => ?undo⟩
  case load => exact ⟨_, exec_ldImm x kk s, s.reg_setReg_same x kk, onlyChanges_setReg s x kk⟩
  case sum => rw [State.reg_setReg_same, BitVec.toNat_add]
  case undo =>
    refine ⟨_, exec_addImm x kk' _, ?_⟩
    rw [State.reg_setReg_same, State.reg_setReg_same, eq_neg_of_toNat_complement hkk',
      ← BitVec.sub_eq_add_neg, BitVec.add_sub_cancel]

/-! ### Bitwise combinations (R163, R164, R165) -/

/-- What an instruction that writes one register does, the value written read bit by bit. -/
theorem exec_writes_bits {i : Instr} {s : State} {x : Reg} {v : Byte} {bit : Nat → Bool}
    (hexec : exec i s = .next (s.setReg x v)) (hbit : ∀ b, v.getLsbD b = bit b) :
    ∃ t, exec i s = .next t ∧ OnlyChanges (· = .reg x) s t ∧
      ∀ b < 8, (t.reg x).getLsbD b = bit b := by
  refine ⟨_, hexec, onlyChanges_setReg s x v, fun b _ => ?_⟩
  rw [State.reg_setReg_same, hbit]

theorem exec_orReg (x y : Reg) (s : State) :
    exec (.orReg x y) s = .next (s.setReg x (s.reg x ||| s.reg y)) := rfl

theorem exec_andReg (x y : Reg) (s : State) :
    exec (.andReg x y) s = .next (s.setReg x (s.reg x &&& s.reg y)) := rfl

theorem exec_xorReg (x y : Reg) (s : State) :
    exec (.xorReg x y) s = .next (s.setReg x (s.reg x ^^^ s.reg y)) := rfl

/-- Settles O27: the four forms are one write of the register, and the three combinations act on each bit
alone. -/
theorem moveAndLogic : Obligations.MoveAndLogic := fun x y s =>
  ⟨⟨_, exec_ldReg x y s, s.reg_setReg_same x _, onlyChanges_setReg s x _⟩,
   exec_writes_bits (exec_orReg x y s) fun _ => BitVec.getLsbD_or,
   exec_writes_bits (exec_andReg x y s) fun _ => BitVec.getLsbD_and,
   exec_writes_bits (exec_xorReg x y s) fun _ => BitVec.getLsbD_xor⟩

end Sys2Proof.Machine
end

section
/-! PROOFS. The meanings of 43_index_memory.md that write the index register alone: the value it then holds and
what stays unchanged (rules R180, R181). -/

namespace Sys2Proof.Machine

/-- Setting the index register changes nothing but the index register. -/
theorem onlyChanges_setIndex (s : State) (v : Word) : OnlyChanges (· = .index) s (s.setIndex v) := by
  intro p hp
  cases p with
  | index => exact absurd rfl hp
  | _ => rfl

theorem exec_ldI (nnn : Addr12) (s : State) :
    exec (.ldI nnn) s = .next (s.setIndex (immAddr nnn)) := rfl

theorem exec_addIVx (x : Reg) (s : State) :
    exec (.addIVx x) s = .next (s.setIndex (s.I + s.regWide x)) := rfl

/-- Zero extension to 16 bits keeps a register's value. -/
@[simp] theorem State.toNat_regWide (s : State) (r : Reg) :
    (s.regWide r).toNat = (s.reg r).toNat :=
  BitVec.toNat_setWidth_of_le (by decide)

/-- Settles O32: both are one write of the index register, and the 16-bit sum is the sum modulo 65536. -/
theorem indexLoadAndAdd : Obligations.IndexLoadAndAdd := by
  refine fun nnn x s =>
    ⟨⟨_, exec_ldI nnn s, toNat_immAddr nnn, onlyChanges_setIndex s _⟩,
     ⟨_, exec_addIVx x s, ?sum, onlyChanges_setIndex s _⟩⟩
  case sum => rw [State.setIndex_I, BitVec.toNat_add, State.toNat_regWide]

end Sys2Proof.Machine
end

section
/-! PROOFS. The meaning of `CLS` in 44_display.md: every framebuffer cell reads false afterwards, and nothing else
changes (rule R190). -/

namespace Sys2Proof.Machine

/-- Clearing the framebuffer changes nothing but framebuffer cells. -/
theorem onlyChanges_clearCells (s : State) :
    OnlyChanges (fun p => ∃ r c, p = .cell r c) s s.clearCells := by
  intro p hp
  cases p with
  | cell r c => exact absurd ⟨r, c, rfl⟩ hp
  | _ => rfl

theorem exec_cls (s : State) : exec .cls s = .next s.clearCells := rfl

/-- Settles O39: the answer is the state with its framebuffer cleared. -/
theorem clearScreen : Obligations.ClearScreen := fun s =>
  ⟨s.clearCells, exec_cls s, s.cell_clearCells, onlyChanges_clearCells s⟩

end Sys2Proof.Machine
end

section
/-! PROOFS. The wait for a key and the loads of the two timers (45_keys_timers.md rules R202 to R205): what the key
scan finds, and a whole tick that comes back to its own address. -/

namespace Sys2Proof.Machine

/-! ### The key scan (R203) -/

/-- The scan passes over every index below `n` when no key below `n` is pressed. -/
theorem State.scan_passes {s : State} {n : Nat} (hn : n ≤ 15)
    (hup : ∀ j : Fin 16, j.val < n → s.keyDown j = false) (j : Nat) (hj : j < n) :
    (!(s.keyDown ∘ Fin.ofNat 16) j) = true := by
  have hval : (Fin.ofNat 16 j).val = j := Nat.mod_eq_of_lt (by omega)
  rw [Function.comp_apply, hup _ (by omega), Bool.not_false]

/-- The scan finds the pressed key below 15 that has no pressed key below it. -/
theorem State.firstKey_eq_some {s : State} {k : Fin 16} (hk : k.val < 15) (hdown : s.keyDown k = true)
    (hbelow : ∀ j : Fin 16, j.val < k.val → s.keyDown j = false) : s.firstKey = some k := by
  have hfind : (List.range keyScanCount).find? (s.keyDown ∘ Fin.ofNat 16) = some k.val :=
    List.find?_range_eq_some.mpr
      ⟨by rwa [Function.comp_apply, Fin.ofNat_val_eq_self], List.mem_range.mpr hk,
       State.scan_passes hk.le hbelow⟩
  rw [firstKey, List.find?_map, hfind, Option.map_some, Fin.ofNat_val_eq_self]

/-- With no key below 15 pressed the scan finds none. -/
theorem State.firstKey_eq_none {s : State} (hup : ∀ k : Fin 16, k.val < 15 → s.keyDown k = false) :
    s.firstKey = none := by
  have hfind : (List.range keyScanCount).find? (s.keyDown ∘ Fin.ofNat 16) = none :=
    List.find?_range_eq_none.mpr (State.scan_passes le_rfl hup)
  rw [firstKey, List.find?_map, hfind, Option.map_none]

/-! ### The wait for a key -/

theorem exec_ldVxK_of_pressed {s : State} {k : Fin 16} (h : s.firstKey = some k) (x : Reg) :
    exec (.ldVxK x) s = .next (s.setReg x (BitVec.ofNat 8 k.val)) := by
  rw [exec, execLdVxK, h]

theorem exec_ldVxK_of_waiting {s : State} (h : s.firstKey = none) (x : Reg) :
    exec (.ldVxK x) s = .next (s.setPc (s.pc - 2)) := by
  rw [exec, execLdVxK, h]
  rfl

/-! ### A tick that comes back to its own address -/

@[simp] theorem State.fetched_firstKey (s : State) : s.fetched.firstKey = s.firstKey := rfl

/-- Back at its own address, a fetch has changed the last opcode alone. -/
theorem State.fetched_setPc_pc (s : State) :
    s.fetched.setPc s.pc = s.latchOpcode s.fetchWord := rfl

/-- Latching a word and the timers' step change the last opcode and the timers alone. -/
theorem onlyChanges_runTimers_latchOpcode (s : State) (w : Word) :
    OnlyChanges (· ∈ [.lastOpcode, .delay, .sound]) s (s.latchOpcode w).runTimers := by
  intro p hp
  rw [State.runTimers_eq]
  cases p with
  | lastOpcode | delay | sound => simp at hp
  | _ => rfl

/-- An instruction that does nothing but go back to its own address makes a tick that only latches the word and
steps the timers. -/
theorem step_of_exec_returns {s : State} {i : Instr} (hf : s.faulted = false) (hp : s.pc.toNat ≤ 4094)
    (hd : decodeWord s.fetchWord = some i) (hexec : exec i s.fetched = .next (s.fetched.setPc s.pc)) :
    step s = .next (s.latchOpcode s.fetchWord).runTimers := by
  rw [step_of_recognized hf hp hd, hexec, finishTick, State.fetched_setPc_pc]

/-- What a tick that only latches the word and steps the timers leaves, part by part. -/
theorem runTimers_latchOpcode_spec {s : State} (hf : s.faulted = false) (w : Word) :
    (s.latchOpcode w).runTimers.lastOpcode = w ∧
      (s.latchOpcode w).runTimers.DT.toNat = s.DT.toNat - 1 ∧
      (s.latchOpcode w).runTimers.ST.toNat = s.ST.toNat - 1 ∧
      OnlyChanges (· ∈ [.lastOpcode, .delay, .sound]) s (s.latchOpcode w).runTimers :=
  ⟨onlyChanges_runTimers (s.latchOpcode w) .lastOpcode (by simp),
   State.toNat_runTimers_DT (t := s.latchOpcode w) hf,
   State.toNat_runTimers_ST (t := s.latchOpcode w) hf,
   onlyChanges_runTimers_latchOpcode s w⟩

/-- The state after the fetch scans the same keys, and going back from it by 2 undoes the advance. -/
theorem exec_ldVxK_fetched_of_waiting {s : State} (h : s.firstKey = none) (x : Reg) :
    exec (.ldVxK x) s.fetched = .next (s.fetched.setPc s.pc) := by
  rw [exec_ldVxK_of_waiting (s.fetched_firstKey.trans h), State.fetched_pc, BitVec.add_sub_cancel]

/-- Settles O44: the two outcomes of the key scan; a tick in which it finds none comes back to its address. -/
theorem waitForKey : Obligations.WaitForKey := by
  refine fun x s => ⟨fun k hk hdown hbelow => ?pressed, fun hup => ⟨?waits, fun hf hp hd => ?tick⟩⟩
  case pressed =>
    refine ⟨_, exec_ldVxK_of_pressed (State.firstKey_eq_some hk hdown hbelow) x, ?_,
      onlyChanges_setReg s x _⟩
    rw [State.reg_setReg_same, BitVec.toNat_ofNat, Nat.mod_eq_of_lt (by omega)]
  case waits =>
    exact ⟨_, exec_ldVxK_of_waiting (State.firstKey_eq_none hup) x, s.setPc_pc _, onlyChanges_setPc s _⟩
  case tick =>
    have hexec := exec_ldVxK_fetched_of_waiting (State.firstKey_eq_none hup) x
    exact ⟨_, step_of_exec_returns hf hp hd hexec, runTimers_latchOpcode_spec hf s.fetchWord⟩

/-! ### The timer loads (R202, R204, R205) -/

/-- Setting the delay timer changes nothing but the delay timer. -/
theorem onlyChanges_setDelay (s : State) (v : Byte) : OnlyChanges (· = .delay) s (s.setDelay v) := by
  intro p hp
  cases p with
  | delay => exact absurd rfl hp
  | _ => rfl

/-- Setting the sound timer changes nothing but the sound timer. -/
theorem onlyChanges_setSound (s : State) (v : Byte) : OnlyChanges (· = .sound) s (s.setSound v) := by
  intro p hp
  cases p with
  | sound => exact absurd rfl hp
  | _ => rfl

theorem exec_ldVxDT (x : Reg) (s : State) : exec (.ldVxDT x) s = .next (s.setReg x s.DT) := rfl

theorem exec_ldDTVx (x : Reg) (s : State) : exec (.ldDTVx x) s = .next (s.setDelay (s.reg x)) := rfl

theorem exec_ldSTVx (x : Reg) (s : State) : exec (.ldSTVx x) s = .next (s.setSound (s.reg x)) := rfl

/-- Settles O43: each load is one write, and the timers' step runs on the state it left. -/
theorem timerLoads : Obligations.TimerLoads := fun x s hf =>
  ⟨⟨_, exec_ldVxDT x s, s.reg_setReg_same x _, onlyChanges_setReg s x _,
     State.toNat_runTimers_DT (t := s.setReg x s.DT) hf⟩,
   ⟨_, exec_ldDTVx x s, s.setDelay_DT _, onlyChanges_setDelay s _,
     State.toNat_runTimers_DT (t := s.setDelay (s.reg x)) hf⟩,
   ⟨_, exec_ldSTVx x s, s.setSound_ST _, onlyChanges_setSound s _,
     State.toNat_runTimers_ST (t := s.setSound (s.reg x)) hf⟩⟩

end Sys2Proof.Machine
end

section
/-! PROOFS. The condition an unrecognized word raises, and what its record carries (60_exceptions.md rule R221). -/

namespace Sys2Proof.Machine

@[simp] theorem State.fetched_lastOpcode (s : State) : s.fetched.lastOpcode = s.fetchWord := rfl

/-- Settles O13: the raise comes after the fetch, which has latched the word, and it keeps the advanced `pc`
that its record carries. -/
theorem unrecognizedWordRaises : Obligations.UnrecognizedWordRaises := by
  refine ⟨by decide, fun s hf hp hd => ⟨_, step_of_unrecognized hf hp hd, ?latch, ?record⟩⟩
  case latch => exact s.fetched.raise_faulted .decodeFailure
  case record => rw [State.raise_faultRec, State.raise_pc, State.fetched_lastOpcode]

end Sys2Proof.Machine
end

section
/-! PROOFS. The decoder and the encoder against each other, against the opcode table and against the list of
unrecognized words (30_encoding.md rules R90 to R102). -/

namespace Sys2Proof

/-! ### Decoding what was encoded -/

/-- Rule R102 on words, one variant at a time: each format gives its fields back, and the sub-code selects the
variant. -/
theorem decodeWord_encodeWord (i : Instr) : decodeWord (encodeWord i) = some i := by
  cases i with
  | cls | ret => rfl
  | jp | call | ldI | jpV0 => simp [encodeWord, decodeWord]
  | seImm | sneImm | ldImm | addImm | rnd => simp [encodeWord, decodeWord]
  | seReg | sneReg | drw => simp [encodeWord, decodeWord]
  | ldReg | orReg | andReg | xorReg | addReg | subReg | shr | subnReg | shl =>
    simp [encodeWord, decodeWord, decodeFamily8]
  | skp | sknp => simp [encodeWord, decodeWord, decodeFamilyE]
  | ldVxDT | ldVxK | ldDTVx | ldSTVx | addIVx | ldFVx | ldBVx | ldMemVx | ldVxMem =>
    simp [encodeWord, decodeWord, decodeFamilyF]

/-- Settles O2: on bytes, the two bytes of a word make that word again. -/
theorem decodeOfEncodeIsInstruction : Obligations.DecodeOfEncodeIsInstruction := by
  refine fun i _ => ⟨decodeWord_encodeWord i, fun rest => ?bytes⟩
  case bytes => simp [encode, decode, decodeWord_encodeWord]

/-! ### Encoding what was decoded -/

/-- A word is what its fields encode to, in each of the three formats. -/
theorem formatA_fields {w : Word} {op : BitVec 4} (hop : fieldOp w = op) :
    formatA op (fieldNNN w) = w := by
  rw [← hop]
  exact (BitVec.extractLsb'_append_extractLsb'_eq_extractLsb' rfl).trans BitVec.extractLsb'_eq_self

theorem formatXK_fields {w : Word} {op : BitVec 4} {kk : Byte} (hop : fieldOp w = op)
    (hkk : fieldKK w = kk) : formatXK op (fieldX w) kk = w := by
  have hnnn : w.extractLsb' 8 4 ++ fieldKK w = fieldNNN w :=
    BitVec.extractLsb'_append_extractLsb'_eq_extractLsb' rfl
  rw [formatXK, fieldX, indexNibble_nibbleIndex, ← hkk, hnnn]
  exact formatA_fields hop

theorem formatXY_fields {w : Word} {op n : BitVec 4} (hop : fieldOp w = op) (hn : fieldN w = n) :
    formatXY op (fieldX w) (fieldY w) n = w := by
  have hkk : w.extractLsb' 4 4 ++ fieldN w = fieldKK w :=
    BitVec.extractLsb'_append_extractLsb'_eq_extractLsb' rfl
  rw [formatXY, fieldY, indexNibble_nibbleIndex, ← hn, hkk]
  exact formatXK_fields hop rfl

theorem encodeWord_of_decodeFamily0 {w : Word} {i : Instr} (h : decodeFamily0 w = some i) :
    encodeWord i = w := by
  unfold decodeFamily0 at h
  split at h
  · cases h; exact Eq.symm ‹_›
  · split at h
    · cases h; exact Eq.symm ‹_›
    · cases h

theorem encodeWord_of_decodeFamily8 {w : Word} {i : Instr} (hop : fieldOp w = 8)
    (h : decodeFamily8 w = some i) : encodeWord i = w := by
  unfold decodeFamily8 at h
  split at h <;> cases h <;> exact formatXY_fields hop ‹_›

theorem encodeWord_of_decodeFamilyE {w : Word} {i : Instr} (hop : fieldOp w = 14)
    (h : decodeFamilyE w = some i) : encodeWord i = w := by
  unfold decodeFamilyE at h
  split at h <;> cases h <;> exact formatXK_fields hop ‹_›

theorem encodeWord_of_decodeFamilyF {w : Word} {i : Instr} (hop : fieldOp w = 15)
    (h : decodeFamilyF w = some i) : encodeWord i = w := by
  unfold decodeFamilyF at h
  split at h <;> cases h <;> exact formatXK_fields hop ‹_›

/-- Rule R102 the other way round: the branch that decoded a word fixes its selector and sub-code, and the operands
are its other fields. -/
theorem encodeWord_of_decodeWord {w : Word} {i : Instr} (h : decodeWord w = some i) :
    encodeWord i = w := by
  unfold decodeWord at h
  split at h <;> rename_i hop
  case h_1 => exact encodeWord_of_decodeFamily0 h
  case h_2 | h_3 | h_11 | h_12 => cases h; exact formatA_fields hop
  case h_4 | h_5 | h_7 | h_8 | h_13 => cases h; exact formatXK_fields hop rfl
  case h_6 | h_10 =>
    split at h
    · cases h; exact formatXY_fields hop ‹_›
    · cases h
  case h_9 => exact encodeWord_of_decodeFamily8 hop h
  case h_14 =>
    cases h
    exact formatXY_fields hop (indexNibble_nibbleIndex _).symm
  case h_15 => exact encodeWord_of_decodeFamilyE hop h
  case h_16 => exact encodeWord_of_decodeFamilyF hop h
  case h_17 => cases h

/-- Settles O3: neither shift's meaning takes its second register. -/
theorem encodeOfDecodeIsWord : Obligations.EncodeOfDecodeIsWord :=
  ⟨fun _ _ => encodeWord_of_decodeWord, fun _ _ _ _ => ⟨rfl, rfl⟩⟩

/-! ### The words that are no instruction -/

theorem decodeFamily0_eq_none {w : Word} :
    decodeFamily0 w = none ↔ w ≠ 0x00E0#16 ∧ w ≠ 0x00EE#16 := by
  unfold decodeFamily0
  split
  · simp [*]
  · split <;> simp [*]

theorem decodeFamily8_eq_none {w : Word} :
    decodeFamily8 w = none ↔
      8 ≤ (fieldN w).toNat ∧ (fieldN w).toNat ≤ 13 ∨ (fieldN w).toNat = 15 := by
  unfold decodeFamily8
  split
  case h_10 => simp only [imp_false, true_iff] at *; bv_omega
  all_goals simp [*]

theorem decodeFamilyE_eq_none {w : Word} :
    decodeFamilyE w = none ↔ (fieldKK w).toNat ∉ [0x9E, 0xA1] := by
  unfold decodeFamilyE
  split
  case h_3 => simp only [BitVec.toNat_eq] at *; simp_all
  all_goals simp [*]

theorem decodeFamilyF_eq_none {w : Word} :
    decodeFamilyF w = none ↔
      (fieldKK w).toNat ∉ [0x07, 0x0A, 0x15, 0x18, 0x1E, 0x29, 0x33, 0x55, 0x65] := by
  unfold decodeFamilyF
  split
  case h_10 => simp only [BitVec.toNat_eq] at *; simp_all
  all_goals simp [*]

theorem toNat_fieldOp (w : Word) : (fieldOp w).toNat = w.toNat / 4096 := by
  have hw : w.toNat < 65536 := w.isLt
  rw [fieldOp, BitVec.extractLsb'_toNat, Nat.shiftRight_eq_div_pow]
  omega

theorem toNat_fieldN (w : Word) : (fieldN w).toNat = w.toNat % 16 := by
  rw [fieldN, BitVec.extractLsb'_toNat, Nat.shiftRight_zero]

theorem toNat_fieldKK (w : Word) : (fieldKK w).toNat = w.toNat % 256 := by
  rw [fieldKK, BitVec.extractLsb'_toNat, Nat.shiftRight_zero]

/-- Rules R98 and R99: a word is no instruction in six families only, by its sub-code. -/
theorem decodeWord_eq_none {w : Word} : decodeWord w = none ↔
    (fieldOp w = 0 ∧ decodeFamily0 w = none) ∨ (fieldOp w = 5 ∧ fieldN w ≠ 0) ∨
    (fieldOp w = 8 ∧ decodeFamily8 w = none) ∨ (fieldOp w = 9 ∧ fieldN w ≠ 0) ∨
    (fieldOp w = 14 ∧ decodeFamilyE w = none) ∨ (fieldOp w = 15 ∧ decodeFamilyF w = none) := by
  unfold decodeWord
  split
  case h_17 =>
    exfalso
    generalize fieldOp w = op at *
    revert op
    decide
  all_goals simp [*]

/-- Settles O5: the families' sub-codes read as parts of the word's number. -/
theorem unrecognizedWordsListed : Obligations.UnrecognizedWordsListed := by
  intro w
  rw [decodeWord_eq_none, decodeFamily0_eq_none, decodeFamily8_eq_none, decodeFamilyE_eq_none,
    decodeFamilyF_eq_none]
  simp only [ne_eq, BitVec.toNat_eq, toNat_fieldOp, toNat_fieldN, toNat_fieldKK]
  rfl

/-! ### The opcode table -/

/-- Two rows that select one word agree where both masks look. -/
theorem values_agree_of_rowSelects {a b : OpcodeRow} {w : Word} (ha : rowSelects a w = true)
    (hb : rowSelects b w = true) : a.value &&& b.mask = b.value &&& a.mask := by
  simp only [rowSelects, beq_iff_eq] at ha hb
  rw [← ha, ← hb, BitVec.and_assoc, BitVec.and_assoc, BitVec.and_comm a.mask]

theorem opcodeTable_values_disagree :
    opcodeTable.Pairwise fun a b => a.value &&& b.mask ≠ b.value &&& a.mask := by
  decide

/-- The three masks of the table that leave operands free keep the selector, and a sub-code with it. -/
theorem and_mask_A (w : Word) : w &&& 0xF000 = formatA (fieldOp w) 0 := by
  apply BitVec.eq_of_getLsbD_eq
  intro k hk
  simp only [formatA, fieldOp, BitVec.getLsbD_and, BitVec.getLsbD_append, BitVec.getLsbD_extractLsb']
  interval_cases k <;> simp

theorem and_mask_XK (w : Word) : w &&& 0xF0FF = formatXK (fieldOp w) 0 (fieldKK w) := by
  apply BitVec.eq_of_getLsbD_eq
  intro k hk
  simp only [formatXK, fieldOp, fieldKK, indexNibble, BitVec.getLsbD_and, BitVec.getLsbD_append,
    BitVec.getLsbD_extractLsb']
  interval_cases k <;> simp

theorem and_mask_XY (w : Word) : w &&& 0xF00F = formatXY (fieldOp w) 0 0 (fieldN w) := by
  apply BitVec.eq_of_getLsbD_eq
  intro k hk
  simp only [formatXY, fieldOp, fieldN, indexNibble, BitVec.getLsbD_and, BitVec.getLsbD_append,
    BitVec.getLsbD_extractLsb']
  interval_cases k <;> simp

/-- A mask that keeps a part of the word compares that part with the value's. -/
theorem and_mask_eq_iff {α : Type} {m v w : Word} {part : Word → α} {build : α → Word}
    (hmask : ∀ u, u &&& m = build (part u)) (hpart : ∀ p, part (build p) = p) (hv : v &&& m = v) :
    w &&& m = v ↔ part w = part v := by
  rw [hmask] at hv ⊢
  exact ⟨fun h => by rw [← h, hpart], fun h => by rw [h, hv]⟩

theorem rowSelects_A {name : String} {v w : Word} (hv : v &&& 0xF000 = v) :
    rowSelects ⟨name, v, 0xF000⟩ w = true ↔ w.toNat / 4096 = v.toNat / 4096 := by
  rw [rowSelects, beq_iff_eq, ← toNat_fieldOp, ← toNat_fieldOp, BitVec.toNat_inj]
  exact and_mask_eq_iff (build := fun op => formatA op 0) and_mask_A (by simp) hv

theorem rowSelects_XK {name : String} {v w : Word} (hv : v &&& 0xF0FF = v) :
    rowSelects ⟨name, v, 0xF0FF⟩ w = true ↔
      w.toNat / 4096 = v.toNat / 4096 ∧ w.toNat % 256 = v.toNat % 256 := by
  simp only [rowSelects, beq_iff_eq, ← toNat_fieldOp, ← toNat_fieldKK, BitVec.toNat_inj]
  rw [← Prod.mk.injEq]
  exact and_mask_eq_iff (part := fun u => (fieldOp u, fieldKK u))
    (build := fun p => formatXK p.1 0 p.2) and_mask_XK (by simp) hv

theorem rowSelects_XY {name : String} {v w : Word} (hv : v &&& 0xF00F = v) :
    rowSelects ⟨name, v, 0xF00F⟩ w = true ↔
      w.toNat / 4096 = v.toNat / 4096 ∧ w.toNat % 16 = v.toNat % 16 := by
  simp only [rowSelects, beq_iff_eq, ← toNat_fieldOp, ← toNat_fieldN, BitVec.toNat_inj]
  rw [← Prod.mk.injEq]
  exact and_mask_eq_iff (part := fun u => (fieldOp u, fieldN u))
    (build := fun p => formatXY p.1 0 0 p.2) and_mask_XY (by simp) hv

theorem rowSelects_whole {name : String} {v w : Word} :
    rowSelects ⟨name, v, 0xFFFF⟩ w = true ↔ w = v := by
  rw [rowSelects, beq_iff_eq]
  exact Eq.congr_left BitVec.and_allOnes

/-- No row selects an unrecognized word: in each family the sub-codes of the rows are the others. -/
theorem rowSelects_eq_false_of_unrecognized {w : Word} (h : decodeWord w = none) :
    ∀ row ∈ opcodeTable, rowSelects row w = false := by
  have hfam := (unrecognizedWordsListed w).mp h
  simp only [opcodeTable, opcodeRows1to9, opcodeRows10to18, opcodeRows19to25, opcodeRows26to34,
    List.cons_append, List.nil_append, List.forall_mem_cons, List.not_mem_nil, ← Bool.not_eq_true]
  simp (disch := decide) only [rowSelects_whole, rowSelects_A, rowSelects_XK, rowSelects_XY]
  simp only [List.mem_cons, List.not_mem_nil, or_false, not_or, BitVec.toNat_eq, ne_eq,
    BitVec.reduceToNat] at hfam ⊢
  obtain ⟨hop, h1, h2⟩ | ⟨hop, hn⟩ | ⟨hop, hn⟩ | ⟨hop, hn⟩ | ⟨hop, h1, h2⟩ | ⟨hop, hkk⟩ := hfam
  · simp [hop, h1, h2]
  · simp [hop, hn]; omega
  · simp [hop]; omega
  · simp [hop, hn]; omega
  · simp [hop, h1, h2]; omega
  · simp [hop, hkk]; omega

theorem toNat_formatA_div (op : BitVec 4) (nnn : Addr12) :
    (formatA op nnn).toNat / 4096 = op.toNat := by
  rw [← toNat_fieldOp, fieldOp_formatA]

theorem toNat_formatXK_div (op : BitVec 4) (x : Reg) (kk : Byte) :
    (formatXK op x kk).toNat / 4096 = op.toNat := by
  rw [← toNat_fieldOp, fieldOp_formatXK]

theorem toNat_formatXK_mod (op : BitVec 4) (x : Reg) (kk : Byte) :
    (formatXK op x kk).toNat % 256 = kk.toNat := by
  rw [← toNat_fieldKK, fieldKK_formatXK]

theorem toNat_formatXY_div (op : BitVec 4) (x y : Reg) (n : BitVec 4) :
    (formatXY op x y n).toNat / 4096 = op.toNat := by
  rw [← toNat_fieldOp, fieldOp_formatXY]

theorem toNat_formatXY_mod (op : BitVec 4) (x y : Reg) (n : BitVec 4) :
    (formatXY op x y n).toNat % 16 = n.toNat := by
  rw [← toNat_fieldN, fieldN_formatXY]

/-- Every instruction's word is selected by the row of its variant: the selector and the sub-code the encoder puts
in are the row's. -/
theorem exists_row_of_instr (i : Instr) :
    ∃ row ∈ opcodeTable, row.variant = variantName i ∧ rowSelects row (encodeWord i) = true := by
  simp only [opcodeTable, opcodeRows1to9, opcodeRows10to18, opcodeRows19to25, opcodeRows26to34,
    List.cons_append, List.nil_append, List.exists_mem_cons_iff, List.not_mem_nil]
  cases i <;>
    simp only [variantName, String.reduceEq, false_and, false_or, true_and, or_false, exists_false]
  case cls | ret => rfl
  all_goals
    simp (disch := decide) only [encodeWord, rowSelects_A, rowSelects_XK, rowSelects_XY,
      toNat_formatA_div, toNat_formatXK_div, toNat_formatXK_mod, toNat_formatXY_div, toNat_formatXY_mod]
    simp

/-- Settles O4: rows that disagree where both masks look are disjoint, the rows miss the unrecognized words, and a
recognized word is the word of its instruction. -/
theorem decoderIsTheOpcodeTable : Obligations.DecoderIsTheOpcodeTable := by
  have hrow : ∀ w i, decodeWord w = some i →
      ∃ row ∈ opcodeTable, row.variant = variantName i ∧ rowSelects row w = true := by
    intro w i hd
    rw [← encodeWord_of_decodeWord hd]
    exact exists_row_of_instr i
  refine ⟨?disjoint, fun w => ⟨rowSelects_eq_false_of_unrecognized, fun hno => ?unrecognized⟩, hrow⟩
  case disjoint =>
    refine opcodeTable_values_disagree.imp fun hne w hsel => ?_
    obtain ⟨ha, hb⟩ := hsel
    exact hne (values_agree_of_rowSelects ha hb)
  case unrecognized =>
    by_contra hsome
    obtain ⟨i, hd⟩ := Option.ne_none_iff_exists'.mp hsome
    obtain ⟨row, hmem, -, hsel⟩ := hrow w i hd
    simp [hno row hmem] at hsel

/-- Settles O1: each word is written out, so the decoder runs on it. -/
theorem sampleWordsDecode : Obligations.SampleWordsDecode := by
  unfold Obligations.SampleWordsDecode
  decide

end Sys2Proof
end

section
/-! PROOFS. Every instruction either raises the condition the table of fatal conditions gives it, having written
nothing else, or writes only the parts named for it (60_exceptions.md rules R220 to R225; 10_state.md sections
1 to 7). -/

namespace Sys2Proof.Machine

/-! ### Frames put together -/

theorem Part.Same.trans {s t u : State} {p : Part} (hst : p.Same s t) (htu : p.Same t u) :
    p.Same s u := by
  cases p <;> exact Eq.trans htu hst

theorem OnlyChanges.mono {w w' : Part → Prop} {s t : State} (h : OnlyChanges w s t)
    (hw : ∀ p, w p → w' p) : OnlyChanges w' s t :=
  fun p hp => h p (mt (hw p) hp)

theorem OnlyChanges.trans {w : Part → Prop} {s t u : State} (hst : OnlyChanges w s t)
    (htu : OnlyChanges w t u) : OnlyChanges w s u :=
  fun p hp => (hst p hp).trans (htu p hp)

/-- Two changes one after another change what either changes. -/
theorem OnlyChanges.or {w w' : Part → Prop} {s t u : State} (hst : OnlyChanges w s t)
    (htu : OnlyChanges w' t u) : OnlyChanges (fun p => w p ∨ w' p) s u :=
  (hst.mono fun _ => .inl).trans (htu.mono fun _ => .inr)

/-! ### Frames of the remaining operations -/

/-- A result and a flag: nothing changes but the two registers. -/
theorem onlyChanges_setReg_setFlag (s : State) (x : Reg) (v f : Byte) :
    OnlyChanges (· ∈ [.reg x, .reg flagReg]) s ((s.setReg x v).setFlag f) :=
  ((onlyChanges_setReg s x v).or (onlyChanges_setReg _ flagReg f)).mono (by simp)

theorem onlyChanges_setFlag_setReg (s : State) (x : Reg) (v f : Byte) :
    OnlyChanges (· ∈ [.reg x, .reg flagReg]) s ((s.setFlag f).setReg x v) :=
  ((onlyChanges_setReg s flagReg f).or (onlyChanges_setReg _ x v)).mono (by simp [or_comm])

theorem onlyChanges_consumeRandom (s : State) : OnlyChanges (· = .draws) s s.consumeRandom := by
  intro p hp
  cases p with
  | draws => exact absurd rfl hp
  | _ => rfl

theorem onlyChanges_consumeRandom_setReg (s : State) (x : Reg) (v : Byte) :
    OnlyChanges (· ∈ [.reg x, .draws]) s (s.consumeRandom.setReg x v) :=
  ((onlyChanges_consumeRandom s).or (onlyChanges_setReg _ x v)).mono (by simp [or_comm])

/-- Whatever the form of memory, a write leaves the bytes at other addresses. -/
theorem Memory.read_place_ne (m : Memory) {k j : Nat} (v : Byte) (h : j ≠ k) :
    (Memory.place k v m).read j = m.read j := by
  unfold Memory.place
  split
  · rfl
  · exact if_neg h.symm

theorem Memory.read_write_ne (m : Memory) {k j : Nat} (v : Byte) (h : j ≠ k) :
    (m.write k v).read j = m.read j := by
  induction m with
  | nil => exact Memory.read_place_ne [] v h
  | cons c m ih =>
    obtain ⟨a, b⟩ := c
    rw [Memory.write]
    split
    · exact Memory.read_place_ne _ v h
    · split
      next _ heq => rw [Memory.read_place_ne m v h, Memory.read, if_neg (heq ▸ h.symm)]
      next => rw [Memory.read, Memory.read, ih]

theorem onlyChanges_writeByte (s : State) (a : Nat) (v : Byte) :
    OnlyChanges (· = .byte a) s (s.writeByte a v) := by
  intro p hp
  cases p with
  | byte j =>
    have hj : j ≠ a := fun hj => hp (congrArg Part.byte hj)
    exact Memory.read_write_ne s.mem v hj
  | _ => rfl

theorem onlyChanges_storeRegs (s : State) (n : Nat) :
    OnlyChanges (fun p => ∃ k < n, p = .byte (s.I.toNat + k)) s (s.storeRegs n) := by
  induction n with
  | zero => exact fun p _ => by cases p <;> rfl
  | succ n ih =>
    rw [State.storeRegs_succ, State.storeRegs_I]
    refine (ih.mono ?_).trans ((onlyChanges_writeByte _ _ _).mono ?_)
    · exact fun p ⟨k, hk, hp⟩ => ⟨k, Nat.lt_succ_of_lt hk, hp⟩
    · exact fun p hp => ⟨n, Nat.lt_succ_self n, hp⟩

theorem onlyChanges_loadRegs (s : State) {n : Nat} (hn : n ≤ 16) :
    OnlyChanges (fun p => ∃ r : Reg, r.val < n ∧ p = .reg r) s (s.loadRegs n) := by
  intro p hp
  cases p with
  | reg q =>
    have hq : ¬ q.val < n := fun hq => hp ⟨q, hq, rfl⟩
    exact (s.reg_loadRegs hn q).trans (if_neg hq)
  | _ => rw [State.loadRegs_eq]; rfl

theorem State.reg_drawSprite_of_ne (s : State) (vx vy : Byte) (n : Fin 16) {q : Reg}
    (hq : q ≠ flagReg) : (s.drawSprite vx vy n.val).reg q = s.reg q := by
  rw [drawSprite_eq_xorCells, (s.xorCells_spec _ (s.spriteCells_nodup vx vy (by omega))).2,
    if_neg fun h => hq h.1]

theorem onlyChanges_drawSprite (s : State) (vx vy : Byte) (n : Fin 16) :
    OnlyChanges (fun p => p = .reg flagReg ∨ ∃ r c, p = .cell r c) s (s.drawSprite vx vy n.val) := by
  intro p hp
  cases p with
  | reg q => exact s.reg_drawSprite_of_ne vx vy n fun hq => hp (.inl (congrArg Part.reg hq))
  | cell r c => exact absurd (.inr ⟨r, c, rfl⟩) hp
  | _ => rw [State.drawSprite_eq]; rfl

theorem onlyChanges_setFlag_drawSprite (s : State) (f vx vy : Byte) (n : Fin 16) :
    OnlyChanges (fun p => p = .reg flagReg ∨ ∃ r c, p = .cell r c) s
      ((s.setFlag f).drawSprite vx vy n.val) :=
  ((onlyChanges_setReg s flagReg f).mono fun _ => .inl).trans (onlyChanges_drawSprite _ vx vy n)

theorem onlyChanges_writeByte_three (s : State) (a : Nat) (u v w : Byte) :
    OnlyChanges (fun p => ∃ k < 3, p = .byte (a + k)) s
      (((s.writeByte a u).writeByte (a + 1) v).writeByte (a + 2) w) :=
  (((onlyChanges_writeByte s a u).mono fun _ hp => ⟨0, by omega, hp⟩).trans
    ((onlyChanges_writeByte _ (a + 1) v).mono fun _ hp => ⟨1, by omega, hp⟩)).trans
    ((onlyChanges_writeByte _ (a + 2) w).mono fun _ hp => ⟨2, by omega, hp⟩)

/-! ### The checks (R10, R200) -/

section
variable {a n : Nat}

theorem rangeViolation_eq_none : rangeViolation a n = none ↔ memInBounds a n = true := by
  rw [rangeViolation, memInBounds_iff]
  split <;> simp <;> omega

theorem rangeViolation_eq_some {k : FatalKind} : rangeViolation a n = some k ↔
    ¬ memInBounds a n = true ∧ .boundsViolation .mem (max a 4096) = k := by
  rw [rangeViolation, memInBounds_iff]
  split <;> simp <;> omega

end

/-- An access of the `n` bytes at `I` that the check passes. -/
theorem exec_access {i : Instr} {s t : State} {n : Nat}
    (hexec : exec i s = if memInBounds s.I.toNat n then .next t else .next (s.raiseMem s.I.toNat))
    (h : rangeViolation s.I.toNat n = none) : exec i s = .next t :=
  hexec.trans (if_pos (rangeViolation_eq_none.mp h))

/-- An access of the `n` bytes at `I` that the check stops. -/
theorem exec_access_raises {i : Instr} {s t : State} {n : Nat} {k : FatalKind}
    (hexec : exec i s = if memInBounds s.I.toNat n then .next t else .next (s.raiseMem s.I.toNat))
    (h : rangeViolation s.I.toNat n = some k) : exec i s = .next (s.raise k) := by
  obtain ⟨hout, rfl⟩ := rangeViolation_eq_some.mp h
  exact hexec.trans (if_neg hout)

theorem keyViolation_eq_none {j : Nat} : keyViolation j = none ↔ j < 16 := by
  rw [keyViolation]
  split <;> simp <;> omega

theorem keyViolation_eq_some {j : Nat} {k : FatalKind} :
    keyViolation j = some k ↔ ¬ j < 16 ∧ .boundsViolation .key j = k := by
  rw [keyViolation]
  split <;> simp <;> omega

section
variable {s : State} {x : Reg} {k : Fin 16}

theorem exec_skp_of_key (h : (s.reg x).toNat = k.val) :
    exec (.skp x) s = .next (s.skipIf (s.keyDown k)) := by
  obtain ⟨k, hk⟩ := k
  subst h
  exact dif_pos hk

theorem exec_sknp_of_key (h : (s.reg x).toNat = k.val) :
    exec (.sknp x) s = .next (s.skipIf (!s.keyDown k)) := by
  obtain ⟨k, hk⟩ := k
  subst h
  exact dif_pos hk

theorem exec_skp_of_outside (h : ¬ (s.reg x).toNat < 16) :
    exec (.skp x) s = .next (s.raise (.boundsViolation .key (s.reg x).toNat)) :=
  dif_neg h

theorem exec_sknp_of_outside (h : ¬ (s.reg x).toNat < 16) :
    exec (.sknp x) s = .next (s.raise (.boundsViolation .key (s.reg x).toNat)) :=
  dif_neg h

end

/-! ### The wait for a key, either way -/

theorem exec_ldVxK_writes (x : Reg) (s : State) :
    ∃ t, exec (.ldVxK x) s = .next t ∧ OnlyChanges (· ∈ [.reg x, .pc]) s t := by
  cases hkey : s.firstKey with
  | some k => exact ⟨_, exec_ldVxK_of_pressed hkey x, (onlyChanges_setReg s x _).mono (by simp)⟩
  | none => exact ⟨_, exec_ldVxK_of_waiting hkey x, (onlyChanges_setPc s _).mono (by simp)⟩

/-! ### What an instruction can do -/

/-- Where the table gives a condition, the instruction raises it and does nothing else. -/
theorem exec_of_fatal {i : Instr} {s : State} {k : FatalKind} (h : fatalCondition s i = some k) :
    exec i s = .next (s.raise k) := by
  cases i with
  | ret =>
    rw [fatalCondition] at h
    split at h <;> cases h
    exact exec_ret_of_empty ‹_›
  | call nnn =>
    rw [fatalCondition] at h
    split at h <;> cases h
    exact exec_call_of_full ‹_›
  | drw | ldBVx | ldMemVx | ldVxMem => exact exec_access_raises rfl h
  | skp =>
    obtain ⟨hout, rfl⟩ := keyViolation_eq_some.mp h
    exact exec_skp_of_outside hout
  | sknp =>
    obtain ⟨hout, rfl⟩ := keyViolation_eq_some.mp h
    exact exec_sknp_of_outside hout
  | _ => cases h

/-- Where the table gives none, the instruction completes and writes only the parts named for it. -/
theorem exec_of_not_fatal {i : Instr} {s : State} (h : fatalCondition s i = none) :
    ∃ t, exec i s = .next t ∧ OnlyChanges (mayWrite s i) s t := by
  cases i with
  | cls => exact ⟨_, exec_cls s, onlyChanges_clearCells s⟩
  | ret =>
    have hpos : 0 < s.sp.val := Nat.pos_of_ne_zero fun hz => by simp [fatalCondition, hz] at h
    exact ⟨_, exec_ret_of_pos hpos, onlyChanges_popPc s hpos⟩
  | call nnn =>
    have hroom : s.sp.val < 16 := by
      have hne : s.sp.val ≠ 16 := fun hfull => by simp [fatalCondition, hfull] at h
      omega
    exact ⟨_, exec_call_of_room hroom, onlyChanges_push_setPc s _ _ hroom⟩
  | jp nnn => exact ⟨_, exec_jp nnn s, onlyChanges_setPc s _⟩
  | jpV0 nnn => exact ⟨_, exec_jpV0 nnn s, onlyChanges_setPc s _⟩
  | seImm | sneImm | seReg | sneReg => exact ⟨_, rfl, onlyChanges_skipIf s _⟩
  | skp =>
    exact ⟨_, exec_skp_of_key (k := ⟨_, keyViolation_eq_none.mp h⟩) rfl, onlyChanges_skipIf s _⟩
  | sknp =>
    exact ⟨_, exec_sknp_of_key (k := ⟨_, keyViolation_eq_none.mp h⟩) rfl, onlyChanges_skipIf s _⟩
  | ldImm | addImm | ldReg | orReg | andReg | xorReg | ldVxDT =>
    exact ⟨_, rfl, onlyChanges_setReg s _ _⟩
  | addReg | subReg | subnReg => exact ⟨_, rfl, onlyChanges_setReg_setFlag s _ _ _⟩
  | shr | shl => exact ⟨_, rfl, onlyChanges_setFlag_setReg s _ _ _⟩
  | rnd => exact ⟨_, rfl, onlyChanges_consumeRandom_setReg s _ _⟩
  | ldI | addIVx | ldFVx => exact ⟨_, rfl, onlyChanges_setIndex s _⟩
  | ldDTVx => exact ⟨_, rfl, onlyChanges_setDelay s _⟩
  | ldSTVx => exact ⟨_, rfl, onlyChanges_setSound s _⟩
  | ldVxK x => exact exec_ldVxK_writes x s
  | drw => exact ⟨_, exec_access rfl h, onlyChanges_setFlag_drawSprite s _ _ _ _⟩
  | ldBVx x => exact ⟨_, exec_access rfl h, onlyChanges_writeByte_three s _ _ _ _⟩
  | ldMemVx x =>
    refine ⟨_, exec_access rfl h, (onlyChanges_storeRegs s _).mono ?_⟩
    exact fun p ⟨k, hk, hp⟩ => ⟨k, Nat.le_of_lt_succ hk, hp⟩
  | ldVxMem x =>
    refine ⟨_, exec_access rfl h, (onlyChanges_loadRegs s (by omega)).mono ?_⟩
    exact fun p ⟨r, hr, hp⟩ => ⟨r, Nat.le_of_lt_succ hr, hp⟩

/-- No instruction names the latch or the record among what it may write. -/
theorem latch_of_onlyChanges {i : Instr} {s t : State} (h : OnlyChanges (mayWrite s i) s t) :
    t.faulted = s.faulted ∧ t.faultRec = s.faultRec :=
  ⟨h .faulted (by cases i <;> simp [mayWrite]), h .faultRec (by cases i <;> simp [mayWrite])⟩

/-- Settles O14: the two cases of an instruction. -/
theorem fatalConditionsAreTheTable : Obligations.FatalConditionsAreTheTable := by
  intro i s
  cases hfatal : fatalCondition s i with
  | some k =>
    refine ⟨_, exec_of_fatal hfatal, fun k' hk' => ?_, nofun⟩
    cases hk'
    exact raises_raise k s
  | none =>
    obtain ⟨t, hexec, hframe⟩ := exec_of_not_fatal hfatal
    exact ⟨t, hexec, nofun, fun _ => latch_of_onlyChanges hframe⟩

/-- An instruction's answer is the raise of its condition, or a next state that differs in the named parts. -/
theorem exec_cases {i : Instr} {s t : State} (h : exec i s = .next t) :
    (∃ k, fatalCondition s i = some k ∧ t = s.raise k) ∨
    (fatalCondition s i = none ∧ OnlyChanges (mayWrite s i) s t) := by
  cases hfatal : fatalCondition s i with
  | some k => exact .inl ⟨k, rfl, Host.Outcome.next.inj (h.symm.trans (exec_of_fatal hfatal))⟩
  | none =>
    obtain ⟨u, hexec, hframe⟩ := exec_of_not_fatal hfatal
    obtain rfl : t = u := Host.Outcome.next.inj (h.symm.trans hexec)
    exact .inr ⟨rfl, hframe⟩

theorem exec_has_next (i : Instr) (s : State) : ∃ t, exec i s = .next t :=
  (fatalConditionsAreTheTable i s).imp fun _ => And.left

/-- Settles O16: the second case of an instruction. -/
theorem onlyNamedPartsWritten : Obligations.OnlyNamedPartsWritten := by
  intro i s t _ hnone hexec
  obtain ⟨k, hsome, -⟩ | ⟨-, hframe⟩ := exec_cases hexec
  · simp [hnone] at hsome
  · exact hframe

/-- A part other than the latch and the record that reads differently is one the instruction may write. -/
theorem mayWrite_of_changed {i : Instr} {s t : State} {p : Part} (h : exec i s = .next t)
    (hp : p ∉ [.faulted, .faultRec]) (hchanged : ¬ p.Same s t) : mayWrite s i p := by
  by_contra hno
  obtain ⟨k, -, rfl⟩ | ⟨-, hframe⟩ := exec_cases h
  · exact hchanged ((raises_raise k s).2.2 p hp)
  · exact hchanged (hframe p hno)

/-- Settles O17: the instructions that name register 15 among what they may write. -/
theorem flagWritersAreSix : Obligations.FlagWritersAreSix := by
  intro i s t hexec hchanged
  have hw : mayWrite s i (.reg 15) := mayWrite_of_changed hexec (by simp) hchanged
  clear hexec hchanged
  cases i with
  | ldVxMem x =>
    obtain ⟨r, hr, hp⟩ := hw
    cases hp
    have hx : x = 15 := Fin.ext (Nat.le_antisymm (Nat.le_of_lt_succ x.isLt) hr)
    simp [hx]
  | _ => simp_all [mayWrite]

/-! ### Who may write each part but the registers and `pc` -/

section
variable {i : Instr} {s : State}

theorem not_mayWrite_key (k : Fin 16) : ¬ mayWrite s i (.key k) := by
  cases i <;> simp [mayWrite]

theorem not_mayWrite_lastOpcode : ¬ mayWrite s i .lastOpcode := by
  cases i <;> simp [mayWrite]

theorem mayWrite_index (h : mayWrite s i .index) :
    (∃ nnn, i = .ldI nnn) ∨ ∃ x, i = .addIVx x ∨ i = .ldFVx x := by
  cases i <;> simp_all [mayWrite]

theorem mayWrite_sp (h : mayWrite s i .sp) : i = .ret ∨ ∃ nnn, i = .call nnn := by
  cases i <;> simp_all [mayWrite]

theorem mayWrite_slot {k : Fin 16} (h : mayWrite s i (.slot k)) : ∃ nnn, i = .call nnn := by
  cases i <;> simp_all [mayWrite]

theorem mayWrite_delay (h : mayWrite s i .delay) : ∃ x, i = .ldDTVx x := by
  cases i <;> simp_all [mayWrite]

theorem mayWrite_sound (h : mayWrite s i .sound) : ∃ x, i = .ldSTVx x := by
  cases i <;> simp_all [mayWrite]

theorem mayWrite_cell {r : Fin 32} {c : Fin 64} (h : mayWrite s i (.cell r c)) :
    i = .cls ∨ ∃ x y n, i = .drw x y n := by
  cases i <;> simp_all [mayWrite]

theorem mayWrite_byte {a : Nat} (h : mayWrite s i (.byte a)) :
    ∃ x, i = .ldBVx x ∨ i = .ldMemVx x := by
  cases i <;> simp_all [mayWrite]

end

theorem keyDown_of_exec {i : Instr} {s t : State} (h : exec i s = .next t) (k : Fin 16) :
    t.keyDown k = s.keyDown k :=
  by_contra fun hne =>
    not_mayWrite_key k (mayWrite_of_changed (p := .key k) h (by simp) hne)

theorem lastOpcode_of_exec {i : Instr} {s t : State} (h : exec i s = .next t) :
    t.lastOpcode = s.lastOpcode :=
  by_contra fun hne =>
    not_mayWrite_lastOpcode (mayWrite_of_changed (p := .lastOpcode) h (by simp) hne)

/-- Settles O18: a part that reads differently is one the instruction may write. -/
theorem specialStateWriters : Obligations.SpecialStateWriters := by
  intro i s t hexec
  have hwrites : ∀ {p : Part}, p ∉ [.faulted, .faultRec] → ¬ p.Same s t → mayWrite s i p :=
    fun hp hne => mayWrite_of_changed hexec hp hne
  exact ⟨keyDown_of_exec hexec, lastOpcode_of_exec hexec,
    fun hne => mayWrite_index (hwrites (by simp) hne),
    fun hne => mayWrite_sp (hwrites (by simp) hne),
    fun k hne => mayWrite_slot (hwrites (p := .slot k) (by simp) hne),
    fun hne => mayWrite_delay (hwrites (by simp) hne),
    fun hne => mayWrite_sound (hwrites (by simp) hne),
    fun r c hne => mayWrite_cell (hwrites (p := .cell r c) (by simp) hne),
    fun a hne => mayWrite_byte (hwrites (p := .byte a) (by simp) hne)⟩

end Sys2Proof.Machine
end

section
/-! PROOFS. What a tick can leave: the state as it was, a raised condition, or what the decoded instruction wrote with
the timers' step after it (40_cycle_driver.md rules R120 to R127). -/

namespace Sys2Proof.Machine

/-! ### The answers of a step -/

theorem step_of_faulted {s : State} (hf : s.faulted = true) : step s = .next s := by
  obtain ⟨-, hstep⟩ | ⟨hf', -⟩ | ⟨hf', -⟩ | ⟨hf', -⟩ := step_cases s
  · exact hstep
  all_goals simp [hf] at hf'

theorem step_of_fetch_outside {s : State} (hf : s.faulted = false) (hp : 4094 < s.pc.toNat) :
    step s = .next (s.raiseMem s.pc.toNat) := by
  obtain ⟨hf', -⟩ | ⟨-, -, hstep⟩ | ⟨-, hp', -⟩ | ⟨-, hp', -⟩ := step_cases s
  · simp [hf] at hf'
  · exact hstep
  all_goals omega

/-- The step of a recognized word whose instruction raises: the timers are left alone. -/
theorem step_of_fatal {s : State} {i : Instr} {k : FatalKind} (hf : s.faulted = false)
    (hp : s.pc.toNat ≤ 4094) (hd : decodeWord s.fetchWord = some i)
    (hfatal : fatalCondition s.fetched i = some k) : step s = .next (s.fetched.raise k) := by
  rw [step_of_recognized hf hp hd, exec_of_fatal hfatal, finishTick, State.runTimers_of_faulted _ rfl]

/-- The step of a recognized word whose instruction completes. -/
theorem step_of_exec {s t : State} {i : Instr} (hf : s.faulted = false) (hp : s.pc.toNat ≤ 4094)
    (hd : decodeWord s.fetchWord = some i) (hexec : exec i s.fetched = .next t) :
    step s = .next t.runTimers := by
  rw [step_of_recognized hf hp hd, hexec, finishTick]

/-- Settles O15: an instruction always has a next state, and so has the tick around it. -/
theorem everyStepHasNextState : Obligations.EveryStepHasNextState := by
  intro s
  obtain ⟨-, hstep⟩ | ⟨-, -, hstep⟩ | ⟨-, -, -, hstep⟩ | ⟨hf, hp, i, hd, -⟩ := step_cases s
  · exact ⟨_, hstep⟩
  · exact ⟨_, hstep⟩
  · exact ⟨_, hstep⟩
  · obtain ⟨t, hexec⟩ := exec_has_next i s.fetched
    exact ⟨_, step_of_exec hf hp hd hexec⟩

/-- What a step leaves: nothing new, a condition raised before or after the fetch, or what an instruction that
raises nothing wrote, with the timers' step. -/
theorem step_next_cases {s t : State} (h : step s = .next t) :
    (s.faulted = true ∧ t = s) ∨
    (s.faulted = false ∧ 4094 < s.pc.toNat ∧ t = s.raiseMem s.pc.toNat) ∨
    (s.faulted = false ∧ s.pc.toNat ≤ 4094 ∧ ∃ k, t = s.fetched.raise k) ∨
    (s.faulted = false ∧ s.pc.toNat ≤ 4094 ∧ ∃ i u, decodeWord s.fetchWord = some i ∧
      exec i s.fetched = .next u ∧ OnlyChanges (mayWrite s.fetched i) s.fetched u ∧
      t = u.runTimers) := by
  have next_eq : ∀ {u}, step s = .next u → t = u := fun hu => Host.Outcome.next.inj (h.symm.trans hu)
  obtain ⟨hf, hstep⟩ | ⟨hf, hp, hstep⟩ | ⟨hf, hp, -, hstep⟩ | ⟨hf, hp, i, hd, -⟩ := step_cases s
  · exact .inl ⟨hf, next_eq hstep⟩
  · exact .inr (.inl ⟨hf, hp, next_eq hstep⟩)
  · exact .inr (.inr (.inl ⟨hf, hp, _, next_eq hstep⟩))
  · obtain ⟨u, hexec⟩ := exec_has_next i s.fetched
    obtain ⟨k, hfatal, -⟩ | ⟨-, hframe⟩ := exec_cases hexec
    · exact .inr (.inr (.inl ⟨hf, hp, k, next_eq (step_of_fatal hf hp hd hfatal)⟩))
    · exact .inr (.inr (.inr ⟨hf, hp, i, u, hd, hexec, hframe, next_eq (step_of_exec hf hp hd hexec)⟩))

/-- Settles O10: both answers are the model's by definition of the latch's test and of the reset port. -/
theorem faultedTickDoesNothing : Obligations.FaultedTickDoesNothing :=
  ⟨fun _ hf => step_of_faulted hf, fun u => ⟨_, rfl, resetCore_faulted u.core⟩⟩

/-- Settles O12: the fetch fault is one raise. -/
theorem fetchOutsideMemoryRaises : Obligations.FetchOutsideMemoryRaises := fun s hf hp =>
  ⟨_, step_of_fetch_outside hf hp, raises_raise _ s⟩

/-! ### The timers' step and the latch -/

@[simp] theorem State.runTimers_faulted (t : State) : t.runTimers.faulted = t.faulted :=
  onlyChanges_runTimers t .faulted (by simp)

@[simp] theorem State.runTimers_faultRec (t : State) : t.runTimers.faultRec = t.faultRec :=
  onlyChanges_runTimers t .faultRec (by simp)

@[simp] theorem State.runTimers_lastOpcode (t : State) : t.runTimers.lastOpcode = t.lastOpcode :=
  onlyChanges_runTimers t .lastOpcode (by simp)

@[simp] theorem State.runTimers_pc (t : State) : t.runTimers.pc = t.pc :=
  onlyChanges_runTimers t .pc (by simp)

@[simp] theorem State.runTimers_slot (t : State) (k : Fin 16) : t.runTimers.slot k = t.slot k :=
  onlyChanges_runTimers t (.slot k) (by simp)

@[simp] theorem State.runTimers_mem (t : State) : t.runTimers.mem = t.mem := by
  rw [t.runTimers_eq]

@[simp] theorem State.runTimers_readByte (t : State) (a : Nat) :
    t.runTimers.readByte a = t.readByte a :=
  onlyChanges_runTimers t (.byte a) (by simp)

@[simp] theorem State.fetched_faulted (s : State) : s.fetched.faulted = s.faulted := rfl
@[simp] theorem State.fetched_faultRec (s : State) : s.fetched.faultRec = s.faultRec := rfl
@[simp] theorem State.fetched_I (s : State) : s.fetched.I = s.I := rfl

/-- The word two bytes form, as a number. -/
theorem toNat_wordOfBytes (hi lo : Byte) : (wordOfBytes hi lo).toNat = hi.toNat * 256 + lo.toNat := by
  have hlo : lo.toNat < 2 ^ 8 := lo.isLt
  rw [wordOfBytes, BitVec.toNat_append, ← Nat.shiftLeft_add_eq_or_of_lt hlo, Nat.shiftLeft_eq]

/-- Settles O8: no instruction writes the last opcode, and neither does a raise. -/
theorem fetchedWordIsLatched : Obligations.FetchedWordIsLatched := by
  refine fun s t hf hp hstep => ⟨?latched, toNat_wordOfBytes _ _⟩
  obtain ⟨hf', -⟩ | ⟨-, hp', -⟩ | ⟨-, -, k, rfl⟩ | ⟨-, -, i, u, -, hexec, -, rfl⟩ :=
    step_next_cases hstep
  · simp [hf] at hf'
  · omega
  · rfl
  · rw [State.runTimers_lastOpcode, lastOpcode_of_exec hexec, State.fetched_lastOpcode]

/-- A raise after the fetch changes nothing but what the fetch and the raise write. -/
theorem onlyChanges_fetched_raise (s : State) (k : FatalKind) :
    OnlyChanges (· ∈ [.pc, .lastOpcode, .faulted, .faultRec]) s (s.fetched.raise k) :=
  ((onlyChanges_fetched s).or (raises_raise k s.fetched).2.2).mono (by simp [or_assoc])

/-- Settles O11: a tick that sets the latch is a raise before the fetch or after it. -/
theorem faultingTickChangesLittle : Obligations.FaultingTickChangesLittle := by
  intro s t hf hstep hset
  obtain ⟨hf', -⟩ | ⟨-, hp, rfl⟩ | ⟨-, hp, k, rfl⟩ | ⟨-, -, i, u, -, -, hframe, rfl⟩ :=
    step_next_cases hstep
  · simp [hf] at hf'
  · exact ⟨⟨_, rfl⟩, fun _ => (raises_raise _ s).2.2, fun hp' => by omega⟩
  · exact ⟨⟨k, rfl⟩, fun hp' => by omega, fun _ => ⟨rfl, rfl, onlyChanges_fetched_raise s k⟩⟩
  · rw [State.runTimers_faulted, (latch_of_onlyChanges hframe).1, State.fetched_faulted, hf] at hset
    cases hset

/-- A timer's step read as a test of the timer. -/
theorem timerPred_eq (t : Byte) : timerPred t = if 0#8 < t then t - 1 else t := by
  rw [timerPred]
  split
  next hz => rw [hz]; rfl
  next hnz => exact (if_pos (by bv_omega)).symm

/-- The timers' step written with the setters. -/
theorem State.runTimers_eq_ite (t : State) : t.runTimers = if t.faulted then t else
    (t.setDelay (if 0#8 < t.DT then t.DT - 1 else t.DT)).setSound
      (if 0#8 < t.ST then t.ST - 1 else t.ST) := by
  rw [runTimers, timerPred_eq, timerPred_eq]
  rfl

/-- Settles O6: the tick of a recognized word, with the timers' step at its end written out. -/
theorem stepRunsDecodedInstruction : Obligations.StepRunsDecodedInstruction := by
  intro s i w hf hp hw hd _
  obtain rfl : w = s.fetchWord := hw
  rw [step_of_recognized hf hp hd, ← s.fetched_eq]
  cases exec i s.fetched with
  | next t => rw [finishTick, State.runTimers_eq_ite]
  | fault r | refused r => rfl

/-- Settles O24: the tick advances by 2 before the skip adds 2 or 0. -/
theorem skipMovesFourInAll : Obligations.SkipMovesFourInAll := by
  intro s t x kk hf hp hd hstep
  obtain rfl : t = (s.fetched.skipIf (s.reg x == kk)).runTimers :=
    Host.Outcome.next.inj (hstep.symm.trans (step_of_exec hf hp hd rfl))
  rw [State.runTimers_pc, State.skipIf_pc, State.fetched_pc]
  by_cases hskip : s.reg x = kk
  · simp only [hskip, beq_self_eq_true, if_true]
    bv_omega
  · simp only [beq_iff_eq, hskip, if_false, toNat_add_two hp]

end Sys2Proof.Machine
end

section
/-! PROOFS. What every step keeps (10_state.md rules R24, R31, R33), and so every run at the ports from reset on. -/

namespace Sys2Proof.Machine

/-! ### Memory stays canonical -/

@[simp] theorem State.skipIf_mem (s : State) (cond : Bool) : (s.skipIf cond).mem = s.mem := by
  cases cond <;> rfl

@[simp] theorem State.drawSprite_mem (s : State) (vx vy : Byte) (n : Nat) :
    (s.drawSprite vx vy n).mem = s.mem := by
  rw [drawSprite_eq]

@[simp] theorem State.loadRegs_mem (s : State) (n : Nat) : (s.loadRegs n).mem = s.mem := by
  rw [loadRegs_eq]

/-- Only the two stores write memory. -/
theorem mem_of_exec {i : Instr} {s t : State} (h : exec i s = .next t)
    (hi : ∀ x, i ≠ .ldBVx x ∧ i ≠ .ldMemVx x) : t.mem = s.mem := by
  cases i with
  | ldBVx x => exact absurd rfl (hi x).1
  | ldMemVx x => exact absurd rfl (hi x).2
  | ret => simp only [exec, execRet] at h; split at h <;> cases h <;> rfl
  | call => simp only [exec, execCall] at h; split at h <;> cases h <;> rfl
  | seImm | sneImm | seReg | sneReg => cases h; exact s.skipIf_mem _
  | skp => simp only [exec, execSkp] at h; split at h <;> cases h <;> simp
  | sknp => simp only [exec, execSknp] at h; split at h <;> cases h <;> simp
  | ldVxK => simp only [exec, execLdVxK] at h; split at h <;> cases h <;> rfl
  | drw => simp only [exec, execDrw] at h; split at h <;> cases h <;> simp
  | ldVxMem => simp only [exec, execLdVxMem] at h; split at h <;> cases h <;> simp
  | _ => cases h; rfl

theorem memCanonical_of_exec {i : Instr} {s t : State} (hs : MemCanonical s)
    (h : exec i s = .next t) : MemCanonical t := by
  obtain ⟨k, -, rfl⟩ | ⟨hnone, -⟩ := exec_cases h
  · exact hs
  · cases i with
    | ldBVx x =>
      have hin := (memInBounds_iff _ _).mp (rangeViolation_eq_none.mp hnone)
      obtain rfl := Host.Outcome.next.inj (h.symm.trans (exec_access rfl hnone))
      have h0 := s.wf_writeByte hs (hundreds (s.reg x)) (a := s.I.toNat) (by omega)
      have h1 := State.wf_writeByte _ h0 (tens (s.reg x)) (a := s.I.toNat + 1) (by omega)
      exact State.wf_writeByte _ h1 _ (by omega)
    | ldMemVx x =>
      have hin := (memInBounds_iff _ _).mp (rangeViolation_eq_none.mp hnone)
      obtain rfl := Host.Outcome.next.inj (h.symm.trans (exec_access rfl hnone))
      exact s.wf_storeRegs hs (by omega)
    | _ =>
      rw [MemCanonical, mem_of_exec h (by simp)]
      exact hs

/-- Settles O46: neither a raise nor the timers' step writes memory, and the stores write cells. -/
theorem memoryStaysCanonical : Obligations.MemoryStaysCanonical := by
  intro s t hs hstep
  obtain ⟨-, rfl⟩ | ⟨-, -, rfl⟩ | ⟨-, -, k, rfl⟩ | ⟨-, -, i, u, -, hexec, -, rfl⟩ :=
    step_next_cases hstep
  · exact hs
  · exact hs
  · exact hs
  · rw [MemCanonical, State.runTimers_mem]
    exact memCanonical_of_exec (s := s.fetched) hs hexec

/-! ### The latch stays coherent -/

/-- A raise latches the record of the state it leaves. -/
theorem latchCoherent_raise (s : State) (k : FatalKind) : LatchCoherent (s.raise k) :=
  ⟨rfl, fun r hr => by cases hr; exact ⟨rfl, rfl⟩⟩

/-- A clear latch without a record is coherent whatever the rest of the state. -/
theorem latchCoherent_of_clear {s : State} (hf : s.faulted = false) (hr : s.faultRec = none) :
    LatchCoherent s := by
  rw [LatchCoherent, hf, hr]
  exact ⟨rfl, nofun⟩

theorem faultRec_of_running {s : State} (hs : LatchCoherent s) (hf : s.faulted = false) :
    s.faultRec = none := by
  obtain ⟨hlatch, -⟩ := hs
  rwa [hf, eq_comm, Option.isSome_eq_false_iff, Option.isNone_iff_eq_none] at hlatch

/-- Settles O47: a tick does nothing, raises, or leaves a clear latch as it is. -/
theorem latchStaysCoherent : Obligations.LatchStaysCoherent := by
  intro s t hs hstep
  obtain ⟨-, rfl⟩ | ⟨-, -, rfl⟩ | ⟨-, -, k, rfl⟩ | ⟨hf, -, i, u, -, -, hframe, rfl⟩ :=
    step_next_cases hstep
  · exact hs
  · exact latchCoherent_raise s _
  · exact latchCoherent_raise s.fetched k
  · obtain ⟨hlatch, hrec⟩ := latch_of_onlyChanges hframe
    apply latchCoherent_of_clear
    · rw [State.runTimers_faulted, hlatch, State.fetched_faulted, hf]
    · rw [State.runTimers_faultRec, hrec, State.fetched_faultRec, faultRec_of_running hs hf]

/-! ### The program counter stays in range -/

/-- Where an instruction can leave `pc`: as it is, a skip, a wait, a popped slot, or a jump. -/
theorem pc_cases_of_exec {i : Instr} {s t : State} (h : exec i s = .next t) :
    t.pc = s.pc ∨ t.pc = s.pc + 2 ∨ t.pc = s.pc - 2 ∨ (∃ k, t.pc = s.slot k) ∨
      (∃ nnn, t.pc = immAddr nnn) ∨ ∃ nnn, t.pc = immAddr nnn + s.regWide 0 := by
  have hskip : ∀ cond, (s.skipIf cond).pc = s.pc ∨ (s.skipIf cond).pc = s.pc + 2 :=
    fun cond => by cases cond <;> simp [State.skipIf_pc]
  obtain ⟨k, -, rfl⟩ | ⟨hnone, hframe⟩ := exec_cases h
  · exact .inl (s.raise_pc k)
  · cases i with
    | seImm | sneImm | seReg | sneReg => cases h; exact (hskip _).imp_right .inl
    | skp x =>
      have hkey := keyViolation_eq_none.mp hnone
      rw [exec_skp_of_key (k := ⟨_, hkey⟩) rfl] at h
      cases h
      exact (hskip _).imp_right .inl
    | sknp x =>
      have hkey := keyViolation_eq_none.mp hnone
      rw [exec_sknp_of_key (k := ⟨_, hkey⟩) rfl] at h
      cases h
      exact (hskip _).imp_right .inl
    | ldVxK x =>
      cases hkey : s.firstKey with
      | some k =>
        rw [exec_ldVxK_of_pressed hkey] at h
        cases h
        exact .inl rfl
      | none =>
        rw [exec_ldVxK_of_waiting hkey] at h
        cases h
        exact .inr (.inr (.inl rfl))
    | ret =>
      simp only [exec, execRet] at h
      split at h <;> cases h
      · exact .inr (.inr (.inr (.inl ⟨_, rfl⟩)))
      · exact .inl rfl
    | call nnn =>
      simp only [exec, execCall] at h
      split at h <;> cases h
      · exact .inr (.inr (.inr (.inr (.inl ⟨nnn, rfl⟩))))
      · exact .inl rfl
    | jp nnn => cases h; exact .inr (.inr (.inr (.inr (.inl ⟨nnn, rfl⟩))))
    | jpV0 nnn => cases h; exact .inr (.inr (.inr (.inr (.inr ⟨nnn, rfl⟩))))
    | _ => exact .inl (hframe .pc (by simp [mayWrite]))

section
variable {i : Instr} {s t : State} (hpc : s.pc.toNat ≤ 4096)
  (hslot : ∀ k, (s.slot k).toNat ≤ 4096) (h : exec i s = .next t)
include hpc hslot h

/-- A call pushes the advanced `pc`, and nothing else writes a slot. -/
theorem slot_le_of_exec (k : Fin 16) : (t.slot k).toNat ≤ 4096 := by
  by_cases hsame : t.slot k = s.slot k
  · rw [hsame]
    exact hslot k
  · have hw : mayWrite s i (.slot k) := mayWrite_of_changed h (by simp) hsame
    obtain ⟨nnn, rfl⟩ := mayWrite_slot hw
    simp only [exec, execCall] at h
    split at h <;> cases h
    · rw [State.setPc_slot, State.slot_push]
      split
      · exact hpc
      · exact hslot k
    · exact hslot k

/-- After an advance, an instruction's `pc` is at most that of the farthest jump, `0xFFF + 0xFF`. -/
theorem pc_le_of_exec (hadv : 2 ≤ s.pc.toNat) : t.pc.toNat ≤ 0x10FE := by
  obtain hsame | hskip | hwait | ⟨k, hpop⟩ | ⟨nnn, hjump⟩ | ⟨nnn, hjump⟩ := pc_cases_of_exec h
  · rw [hsame]
    omega
  · rw [hskip]
    bv_omega
  · rw [hwait]
    bv_omega
  · rw [hpop]
    exact (hslot k).trans (by decide)
  · have := nnn.isLt
    rw [hjump, toNat_immAddr]
    omega
  · have := nnn.isLt
    have := (s.reg 0).isLt
    rw [hjump, toNat_immAddr_add_regWide]
    omega

end

/-- Settles O48: the fetch bounds `pc` before the instruction, whatever it was. -/
theorem pcStaysInRange : Obligations.PcStaysInRange := by
  intro s t ⟨hpc, hslot⟩ hstep
  obtain ⟨-, rfl⟩ | ⟨-, -, rfl⟩ | ⟨-, hp, k, rfl⟩ | ⟨-, hp, i, u, -, hexec, -, rfl⟩ :=
    step_next_cases hstep
  · exact ⟨hpc, hslot⟩
  · exact ⟨hpc, hslot⟩
  · refine ⟨?_, hslot⟩
    rw [State.raise_pc, State.fetched_pc, toNat_add_two hp]
    omega
  · have hfetched : s.fetched.pc.toNat = s.pc.toNat + 2 := toNat_add_two hp
    refine ⟨?_, fun k => ?_⟩
    · rw [State.runTimers_pc]
      exact pc_le_of_exec (s := s.fetched) (by omega) hslot hexec (by omega)
    · rw [State.runTimers_slot]
      exact slot_le_of_exec (s := s.fetched) (by omega) hslot hexec k

/-! ### From reset on -/

/-- Settles O49: memory is empty, the latch is clear, and every slot is 0. -/
theorem resetMeetsInvariant : Obligations.ResetMeetsInvariant :=
  ⟨rfl, latchCoherent_of_clear rfl rfl, by decide, by decide⟩

theorem inv_step {s t : State} (hs : Inv s) (h : step s = .next t) : Inv t := by
  obtain ⟨hmem, hlatch, hpc⟩ := hs
  exact ⟨memoryStaysCanonical s t hmem h, latchStaysCoherent s t hlatch h, pcStaysInRange s t hpc h⟩

theorem loadByte_of_cell {a : Nat} (ha : a < 4096) (b : Byte) (s : State) :
    loadByte a b s = .next (s.writeByte a b) :=
  if_pos ha

theorem loadByte_of_no_cell {a : Nat} (ha : 4096 ≤ a) (b : Byte) (s : State) :
    loadByte a b s = .fault (.noSuchCell a) :=
  if_neg (by omega)

/-- A load writes a cell, and neither the latch nor `pc` nor the stack. -/
theorem inv_loadByte {a : Nat} {b : Byte} {s t : State} (hs : Inv s)
    (h : loadByte a b s = .next t) : Inv t := by
  obtain ⟨hmem, hlatch, hpc⟩ := hs
  by_cases ha : a < 4096
  · rw [loadByte_of_cell ha] at h
    cases h
    exact ⟨s.wf_writeByte hmem b ha, hlatch, hpc⟩
  · rw [loadByte_of_no_cell (Nat.le_of_not_lt ha)] at h
    cases h

theorem asSession_eq_next {ticked : Bool} {r : Result} {v : Session}
    (h : asSession ticked r = .next v) : r = .next v.core := by
  cases r <;> cases h
  rfl

/-- One event keeps the invariant; a reset puts it in place, and a key write does not touch what it is about. -/
theorem inv_portStep {e : PortEvent} {u v : Session} (hu : Inv u.core)
    (h : portStep e u = .next v) : Inv v.core := by
  cases e with
  | reset => cases h; exact resetMeetsInvariant
  | load a b =>
    rw [portStep] at h
    split at h
    · cases h
    · exact inv_loadByte hu (asSession_eq_next h)
  | tick => exact inv_step hu (asSession_eq_next h)
  | keyIn k down => cases h; exact hu

theorem inv_portRun {es : List PortEvent} {u v : Session} (hu : Inv u.core)
    (h : portRun es u = .next v) : Inv v.core := by
  induction es generalizing u with
  | nil => cases h; exact hu
  | cons e es ih =>
    rw [portRun] at h
    split at h
    next w hw => exact ih (inv_portStep hu hw) h
    all_goals cases h

/-- Settles O50: the invariant holds at reset and every event keeps it. -/
theorem portRunsKeepInvariant : Obligations.PortRunsKeepInvariant := fun _ _ h =>
  inv_portRun (u := ⟨false, State.reset⟩) resetMeetsInvariant h

end Sys2Proof.Machine
end

section
/-! PROOFS. The accesses of memory at `I` (43_index_memory.md rules R183 to R185; 20_memory.md section 7): what is
stored and loaded inside memory, and the violation past its end. -/

namespace Sys2Proof.Machine

/-! ### Inside and past the end -/

section
variable {s : State} {i : Instr} {n : Nat} (hfatal : fatalCondition s i = rangeViolation s.I.toNat n)
include hfatal

theorem not_fatal_of_inside (h : s.I.toNat + n ≤ 4096) : fatalCondition s i = none :=
  hfatal.trans (if_neg (by omega))

theorem raises_of_outside (h : n > 0 ∧ s.I.toNat + n - 1 > 4095) : ∃ t, exec i s = .next t ∧
    Raises (.boundsViolation .mem (max s.I.toNat 4096)) s t :=
  ⟨_, exec_of_fatal (hfatal.trans (if_pos h)), raises_raise _ s⟩

end

/-! ### Decimal digits (R183) -/

section
variable (v : Byte)

theorem toNat_hundreds : (hundreds v).toNat = v.toNat / 100 := by
  have := v.isLt
  rw [hundreds, BitVec.toNat_ofNat]
  omega

theorem toNat_tens : (tens v).toNat = v.toNat / 10 % 10 := by
  rw [tens, BitVec.toNat_ofNat]
  omega

theorem toNat_units : (units v).toNat = v.toNat % 10 := by
  rw [units, BitVec.toNat_ofNat]
  omega

end

/-- Three writes from `a` on, read back. -/
theorem State.readByte_writeByte_three {s : State} (hs : s.mem.wf = true) {a : Nat}
    (ha : a + 2 < 4096) (u v w : Byte) (j : Nat) :
    (((s.writeByte a u).writeByte (a + 1) v).writeByte (a + 2) w).readByte j =
      if j = a + 2 then w else if j = a + 1 then v else if j = a then u else s.readByte j := by
  have h0 := s.wf_writeByte hs u (a := a) (by omega)
  have h1 := wf_writeByte _ h0 v (a := a + 1) (by omega)
  rw [readByte_writeByte _ h1, readByte_writeByte _ h0, readByte_writeByte _ hs]

/-- Settles O34: the three digits are three writes. -/
theorem storeDecimalDigits : Obligations.StoreDecimalDigits := by
  refine fun x s => ⟨fun hin hs => ?_, fun hout => raises_of_outside rfl ⟨by decide, by omega⟩⟩
  have hnone : fatalCondition s (.ldBVx x) = none := not_fatal_of_inside rfl (by omega)
  have hexec := exec_access (i := .ldBVx x) rfl hnone
  refine ⟨_, hexec, ?_, ?_, ?_, onlyNamedPartsWritten _ s _ hs hnone hexec⟩ <;>
    rw [State.readByte_writeByte_three hs (by omega)]
  · simp [toNat_hundreds]
  · simp [toNat_tens]
  · simp [toNat_units]

/-! ### Block transfers (R184, R185) -/

/-- Settles O35: a block store read back at the address of each register. -/
theorem blockStore : Obligations.BlockStore := by
  refine fun x s => ⟨fun hin hs => ?_, fun hout => raises_of_outside rfl ⟨by omega, by omega⟩⟩
  have hnone : fatalCondition s (.ldMemVx x) = none := not_fatal_of_inside rfl (by omega)
  have hexec := exec_access (i := .ldMemVx x) rfl hnone
  refine ⟨_, hexec, fun r hr => ?_, onlyNamedPartsWritten _ s _ hs hnone hexec⟩
  rw [s.readByte_storeRegs hs (by omega), if_pos (by omega), Nat.add_sub_cancel_left,
    Fin.ofNat_val_eq_self]

/-- Settles O36: a block load read register by register. -/
theorem blockLoad : Obligations.BlockLoad := by
  refine fun x s => ⟨fun hin => ?_, fun hout => raises_of_outside rfl ⟨by omega, by omega⟩⟩
  have hnone : fatalCondition s (.ldVxMem x) = none := not_fatal_of_inside rfl (by omega)
  refine ⟨_, exec_access (i := .ldVxMem x) rfl hnone, fun r hr => ?_,
    (onlyChanges_loadRegs s (by omega)).mono fun p ⟨r, hr, hp⟩ => ⟨r, by omega, hp⟩⟩
  rw [s.reg_loadRegs (by omega), if_pos (by omega)]

/-- Settles O37: the block store's bytes are what the block load reads. -/
theorem blockStoreThenLoad : Obligations.BlockStoreThenLoad := by
  intro x s hs hin
  obtain ⟨t, hstore, hstored, hframe⟩ := (blockStore x s).1 hin hs
  have hI : t.I = s.I := hframe .index (by simp)
  refine ⟨t, hstore, fun t' hI' hbytes => ?_⟩
  obtain ⟨u, hload, hloaded, -⟩ := (blockLoad x t').1 (by rwa [hI', hI])
  refine ⟨u, hload, fun r hr => ?_⟩
  rw [hloaded r hr, hI', hbytes r.val hr, hI, hstored r hr]

/-- Settles O38: the tick's `pc` is at the stored bytes when the block store has completed. -/
theorem storesAreFetchedAtOnce : Obligations.StoresAreFetchedAtOnce := by
  intro s t x k hf hp hs hd hin hk hat hstep
  obtain ⟨u, hexec, hstored, hframe⟩ := (blockStore x s.fetched).1 hin hs
  obtain rfl : t = u.runTimers :=
    Host.Outcome.next.inj (hstep.symm.trans (step_of_exec hf hp hd hexec))
  have hpc : u.pc.toNat = s.I.toNat + k.val := by
    have hsame : u.pc = s.fetched.pc := hframe .pc (by simp)
    rw [hsame, State.fetched_pc, toNat_add_two hp, hat]
  have hnext : (k + 1).val = k.val + 1 := Fin.val_add_one_of_lt (Fin.lt_def.mpr (show k.val < 15 by omega))
  have hfirst := hstored k (by omega)
  have hsecond := hstored (k + 1) (by omega)
  simp only [State.fetched_I, State.fetched_reg, hnext] at hfirst hsecond
  rw [State.fetchWord, State.runTimers_readByte, State.runTimers_readByte, State.runTimers_pc, hpc,
    Nat.add_assoc, hfirst, hsecond]

end Sys2Proof.Machine
end

section
/-! PROOFS. The draw of a sprite (44_display.md rule R191): the covered cells are inverted, the flag register is the
collision, and a second draw undoes the first. -/

namespace Sys2Proof.Machine

theorem rangeViolation_of_drawable {a n : Nat} (h : n = 0 ∨ a + n - 1 ≤ 4095) :
    rangeViolation a n = none :=
  if_neg (by omega)

theorem exec_drw_of_inside {x y : Reg} {n : Fin 16} {s : State}
    (h : n.val = 0 ∨ s.I.toNat + n.val - 1 ≤ 4095) :
    exec (.drw x y n) s = .next ((s.setFlag 0#8).drawSprite (s.reg x) (s.reg y) n.val) :=
  exec_access rfl (rangeViolation_of_drawable h)

/-- The cells a sprite inverts are those its set bits fall on. -/
theorem State.mem_spriteCells_iff_covers {s : State} {vx vy : Byte} {n : Nat} {r : Fin 32}
    {c : Fin 64} : (r, c) ∈ s.spriteCells vx vy n ↔ SpriteCovers s vx vy n r c := by
  rw [mem_spriteCells, SpriteCovers]
  refine exists_congr fun row => and_congr_right fun _ => exists_congr fun col =>
    and_congr_right fun hcol => ?_
  rw [spriteBit_eq _ hcol, Fin.ext_iff, Fin.ext_iff]
  rfl

/-- Drawing after the flag is cleared covers the same cells. -/
theorem State.spriteCells_setFlag (s : State) (f vx vy : Byte) (n : Nat) :
    (s.setFlag f).spriteCells vx vy n = s.spriteCells vx vy n := rfl

section
variable (s : State) (vx vy : Byte) (n : Fin 16)

/-- A cell after the draw. -/
theorem State.cell_drawn (r : Fin 32) (c : Fin 64) :
    ((s.setFlag 0#8).drawSprite vx vy n.val).cell r c =
      if (r, c) ∈ s.spriteCells vx vy n.val then !s.cell r c else s.cell r c := by
  rw [drawSprite_eq_xorCells, spriteCells_setFlag,
    (xorCells_spec _ _ (s.spriteCells_nodup vx vy (by omega))).1, setFlag_cell]

/-- The flag register after the draw. -/
theorem State.flag_drawn : ((s.setFlag 0#8).drawSprite vx vy n.val).reg flagReg =
    if ∃ p ∈ s.spriteCells vx vy n.val, s.cell p.1 p.2 = true then 1#8 else 0#8 := by
  rw [drawSprite_eq_xorCells, spriteCells_setFlag,
    (xorCells_spec _ _ (s.spriteCells_nodup vx vy (by omega))).2]
  simp

end

/-- Settles O40: the covered cells are distinct, so each is inverted once. -/
theorem drawSprite : Obligations.DrawSprite := by
  refine fun x y n s => ⟨fun hin => ?_, fun hout => raises_of_outside rfl hout⟩
  refine ⟨_, exec_drw_of_inside hin, fun r c hcov => ?_, fun r c hcov => ?_, fun hlit => ?_,
    fun hdark => ?_, onlyChanges_setFlag_drawSprite s _ _ _ n⟩
  · rw [State.cell_drawn, if_pos (State.mem_spriteCells_iff_covers.mpr hcov)]
  · rw [State.cell_drawn, if_neg (mt State.mem_spriteCells_iff_covers.mp hcov)]
  · obtain ⟨r, c, hcov, hcell⟩ := hlit
    exact (State.flag_drawn s _ _ n).trans
      (if_pos ⟨(r, c), State.mem_spriteCells_iff_covers.mpr hcov, hcell⟩)
  · refine (State.flag_drawn s _ _ n).trans (if_neg ?_)
    rintro ⟨⟨r, c⟩, hmem, hcell⟩
    simp [hdark r c (State.mem_spriteCells_iff_covers.mp hmem)] at hcell

/-- A sprite covers the same cells in any state with the same `I` and bytes. -/
theorem State.spriteCells_drawSprite (s : State) (vx vy vx' vy' : Byte) (n m : Nat) :
    (s.drawSprite vx vy n).spriteCells vx' vy' m = s.spriteCells vx' vy' m := by
  rw [drawSprite_eq]
  rfl

/-- Settles O41: the second draw inverts the same cells, and on a screen that was clear the lit ones are among
them. -/
theorem drawTwiceRestoresScreen : Obligations.DrawTwiceRestoresScreen := by
  intro x y n s t hexec hin hx hy
  rw [exec_drw_of_inside hin] at hexec
  have ht := Host.Outcome.next.inj hexec
  have hI : t.I = s.I := by rw [← ht, State.drawSprite_eq]; rfl
  have hcells : t.spriteCells (s.reg x) (s.reg y) n.val = s.spriteCells (s.reg x) (s.reg y) n.val := by
    rw [← ht, State.spriteCells_drawSprite, State.spriteCells_setFlag]
  have hdrawn : ∀ r c, t.cell r c = if (r, c) ∈ s.spriteCells (s.reg x) (s.reg y) n.val
      then !s.cell r c else s.cell r c := by
    intro r c
    rw [← ht, State.cell_drawn]
  refine ⟨_, exec_drw_of_inside (by rwa [hI]), fun r c => ?_, fun hclear ⟨r, c, hlit⟩ => ?_⟩
  · rw [State.cell_drawn, hx, hy, hcells, hdrawn]
    split
    · exact Bool.not_not _
    · rfl
  · refine (State.flag_drawn t _ _ n).trans (if_pos ⟨(r, c), ?_, hlit⟩)
    rw [hx, hy, hcells]
    by_contra hno
    rw [hdrawn, if_neg hno, hclear] at hlit
    cases hlit

end Sys2Proof.Machine
end

section
/-! PROOFS. The meanings of 42_alu.md that write the flag register or draw a random byte: the values left, operands
taken as they were, and the forms with `x = 15` (rules R166 to R171). -/

namespace Sys2Proof.Machine

/-! ### Flags as numbers (R25) -/

theorem toNat_flagByte (p : Prop) [Decidable p] :
    (flagByte (decide p)).toNat = if p then 1 else 0 := by
  by_cases h : p <;> simp [flagByte, h]

theorem toNat_lowBitFlag (a : Byte) : (lowBitFlag a).toNat = a.toNat % 2 := by
  rw [lowBitFlag, BitVec.toNat_and]
  exact Nat.and_one_is_mod a.toNat

theorem toNat_highBitFlag (a : Byte) : (highBitFlag a).toNat = a.toNat / 128 := by
  have := a.isLt
  rw [highBitFlag, BitVec.toNat_and, BitVec.toNat_ushiftRight, Nat.shiftRight_eq_div_pow]
  rw [show (1#8).toNat = 1 from rfl, Nat.and_one_is_mod]
  omega

/-! ### A result and then the flag (R166, R167, R169) -/

/-- What an instruction that writes its result and then a flag does: for `x = 15` only the flag remains. -/
theorem exec_result_then_flag {i : Instr} {s : State} {x : Reg} {v : Byte} {p : Prop} [Decidable p]
    {result : Nat} (hexec : exec i s = .next ((s.setReg x v).setFlag (flagByte (decide p))))
    (hv : v.toNat = result) :
    ∃ t, exec i s = .next t ∧ (x ≠ 15 → (t.reg x).toNat = result) ∧
      (t.reg 15).toNat = (if p then 1 else 0) ∧ OnlyChanges (· ∈ [.reg x, .reg 15]) s t := by
  refine ⟨_, hexec, fun hx => ?_, ?_, onlyChanges_setReg_setFlag s x v _⟩
  · rw [State.reg_setFlag, if_neg (show x ≠ flagReg from hx), State.reg_setReg_same, hv]
  · exact (congrArg BitVec.toNat (State.reg_setReg_same _ flagReg _)).trans (toNat_flagByte p)

/-- Settles O28: the sum, then its carry. -/
theorem addRegisters : Obligations.AddRegisters := fun _ _ _ =>
  exec_result_then_flag rfl (BitVec.toNat_add _ _)

theorem toNat_sub_eq (a b : Byte) : (a - b).toNat = (a.toNat + 256 - b.toNat) % 256 := by
  bv_omega

/-- Settles O29: the two differences, then the test for a borrow. -/
theorem subtractRegisters : Obligations.SubtractRegisters := fun _ _ _ =>
  ⟨exec_result_then_flag rfl (toNat_sub_eq _ _), exec_result_then_flag rfl (toNat_sub_eq _ _)⟩

/-! ### The flag and then the shift (R168, R170) -/

section
variable {s : State} {x : Reg} {f : Byte} {shift : Byte → Byte}

/-- The register shifted is not the flag register: it is shifted as it was, and the flag remains. -/
theorem flag_then_shift_of_ne (hx : x ≠ 15) :
    ((s.setFlag f).setReg x (shift ((s.setFlag f).reg x))).reg x = shift (s.reg x) ∧
      ((s.setFlag f).setReg x (shift ((s.setFlag f).reg x))).reg 15 = f := by
  have hflag : (s.setFlag f).reg x = s.reg x := (s.reg_setFlag x f).trans (if_neg hx)
  refine ⟨by rw [State.reg_setReg_same, hflag], ?_⟩
  rw [State.reg_setReg, if_neg hx.symm]
  exact s.reg_setReg_same flagReg f

/-- The register shifted is the flag register: the flag itself is shifted. -/
theorem flag_then_shift_of_eq :
    ((s.setFlag f).setReg 15 (shift ((s.setFlag f).reg 15))).reg 15 = shift f := by
  rw [State.reg_setReg_same]
  exact congrArg shift (s.reg_setReg_same flagReg f)

end

theorem exec_shr (x y : Reg) (s : State) : exec (.shr x y) s =
    .next ((s.setFlag (lowBitFlag (s.reg x))).setReg x
      ((s.setFlag (lowBitFlag (s.reg x))).reg x >>> 1)) := rfl

theorem exec_shl (x y : Reg) (s : State) : exec (.shl x y) s =
    .next ((s.setFlag (highBitFlag (s.reg x))).setReg x
      ((s.setFlag (highBitFlag (s.reg x))).reg x <<< 1)) := rfl

theorem toNat_shiftRight_one (a : Byte) : (a >>> 1).toNat = a.toNat / 2 := by
  rw [BitVec.toNat_ushiftRight, Nat.shiftRight_eq_div_pow]

theorem toNat_shiftLeft_one (a : Byte) : (a <<< 1).toNat = 2 * a.toNat % 256 := by
  rw [BitVec.toNat_shiftLeft, Nat.shiftLeft_eq, Nat.mul_comm]

/-- Settles O30: the flag is the bit shifted out, and with `x = 15` it is what the shift then takes. -/
theorem shiftRegister : Obligations.ShiftRegister := by
  refine fun x y s => ⟨⟨_, exec_shr x y s, fun hx => ?_, ?_, onlyChanges_setFlag_setReg s x _ _⟩,
    ⟨_, exec_shl x y s, fun hx => ?_, ?_, onlyChanges_setFlag_setReg s x _ _⟩⟩
  · obtain ⟨hshift, hflag⟩ := flag_then_shift_of_ne (s := s) (f := lowBitFlag (s.reg x))
      (shift := (· >>> 1)) hx
    exact ⟨(congrArg BitVec.toNat hshift).trans (toNat_shiftRight_one _),
      (congrArg BitVec.toNat hflag).trans (toNat_lowBitFlag _)⟩
  · rintro rfl
    rw [flag_then_shift_of_eq (shift := (· >>> 1)), toNat_shiftRight_one, toNat_lowBitFlag]
    omega
  · obtain ⟨hshift, hflag⟩ := flag_then_shift_of_ne (s := s) (f := highBitFlag (s.reg x))
      (shift := (· <<< 1)) hx
    exact ⟨(congrArg BitVec.toNat hshift).trans (toNat_shiftLeft_one _),
      (congrArg BitVec.toNat hflag).trans (toNat_highBitFlag _)⟩
  · rintro rfl
    have := (s.reg 15).isLt
    rw [flag_then_shift_of_eq (shift := (· <<< 1)), toNat_shiftLeft_one, toNat_highBitFlag]
    omega

/-! ### The random byte (R171) -/

theorem exec_rnd (x : Reg) (kk : Byte) (s : State) :
    exec (.rnd x kk) s = .next (s.consumeRandom.setReg x (s.randomByte &&& kk)) := rfl

/-- Settles O31: one byte is consumed and one register is written. -/
theorem randomAndImmediate : Obligations.RandomAndImmediate := fun x kk s =>
  ⟨_, exec_rnd x kk s, s.consumeRandom.reg_setReg_same x _, rfl,
    onlyChanges_consumeRandom_setReg s x _⟩

end Sys2Proof.Machine
end

section
/-! PROOFS. The digit's font address (43_index_memory.md rule R182), the skips on a key (45_keys_timers.md rules R200,
R201) and the jump to itself (40_cycle_driver.md rule R129). -/

namespace Sys2Proof.Machine

/-! ### The font address -/

/-- Five times a byte fits 16 bits. -/
theorem toNat_fontAddr (d : Byte) : (fontAddr d).toNat = 5 * d.toNat := by
  have := d.isLt
  have hwide : (d.setWidth 16).toNat = d.toNat := BitVec.toNat_setWidth_of_le (by decide)
  rw [fontAddr, Config.fontBase, BitVec.toNat_add, BitVec.toNat_mul, hwide]
  simp only [BitVec.reduceToNat]
  omega

theorem exec_ldFVx (x : Reg) (s : State) :
    exec (.ldFVx x) s = .next (s.setIndex (fontAddr (s.reg x))) := rfl

/-- Settles O33: one write of the index register. -/
theorem fontAddressUnmasked : Obligations.FontAddressUnmasked := fun x s =>
  ⟨_, exec_ldFVx x s, toNat_fontAddr _, onlyChanges_setIndex s _⟩

/-! ### Skips on a key -/

/-- Settles O42: a key index gives a skip on that key's flag, any other value a raise. -/
theorem keySkips : Obligations.KeySkips := by
  refine fun x s => ⟨fun k hk => ⟨?_, ?_⟩, fun hout => ⟨?_, ?_⟩⟩
  · exact exec_skips (exec_skp_of_key hk) Iff.rfl
  · exact exec_skips (exec_sknp_of_key hk) (Bool.not_eq_true' _).to_iff
  · exact ⟨_, exec_skp_of_outside (by omega), raises_raise _ s⟩
  · exact ⟨_, exec_sknp_of_outside (by omega), raises_raise _ s⟩

/-! ### The jump to itself -/

/-- Format `A` as a number. -/
theorem toNat_formatA (op : BitVec 4) (nnn : Addr12) :
    (formatA op nnn).toNat = op.toNat * 4096 + nnn.toNat := by
  have hnnn : nnn.toNat < 2 ^ 12 := nnn.isLt
  rw [formatA, BitVec.toNat_append, ← Nat.shiftLeft_add_eq_or_of_lt hnnn, Nat.shiftLeft_eq]

/-- At a jump to itself the word is that of a jump to `pc`. -/
theorem decodeWord_selfJump {s : State} (h : AtSelfJump s) :
    ∃ nnn, decodeWord s.fetchWord = some (.jp nnn) ∧ immAddr nnn = s.pc := by
  obtain ⟨hp, hw⟩ := h
  have htarget : (s.pc.setWidth 12).toNat = s.pc.toNat := by
    rw [BitVec.toNat_setWidth]
    omega
  have hword : encodeWord (.jp (s.pc.setWidth 12)) = s.fetchWord := by
    apply BitVec.eq_of_toNat_eq
    rw [hw, encodeWord, toNat_formatA, htarget, BitVec.toNat_add]
    simp only [BitVec.reduceToNat]
    omega
  refine ⟨s.pc.setWidth 12, ?_, BitVec.eq_of_toNat_eq ((toNat_immAddr _).trans htarget)⟩
  rw [← hword, decodeWord_encodeWord]

@[simp] theorem State.runTimers_fetchWord (t : State) : t.runTimers.fetchWord = t.fetchWord := by
  simp [fetchWord]

@[simp] theorem State.latchOpcode_fetchWord (s : State) (w : Word) :
    (s.latchOpcode w).fetchWord = s.fetchWord := rfl

/-- Settles O45: the jump goes back to its own address, where the same word is fetched. -/
theorem selfJumpStaysPut : Obligations.SelfJumpStaysPut := by
  intro s hf hat
  obtain ⟨nnn, hd, haddr⟩ := decodeWord_selfJump hat
  have hexec : exec (.jp nnn) s.fetched = .next (s.fetched.setPc s.pc) := by
    rw [exec_jp, haddr]
  refine ⟨_, step_of_exec_returns hf hat.1 hd hexec,
    onlyChanges_runTimers_latchOpcode s s.fetchWord, ?_⟩
  rw [AtSelfJump, State.runTimers_fetchWord, State.latchOpcode_fetchWord, State.runTimers_pc]
  exact hat

end Sys2Proof.Machine
end

section
/-! PROOFS. What is not read (60_exceptions.md section 2; 10_state.md section 6): an instruction that does not use the
screen, the keys or the random input does the same whatever they are. -/

namespace Sys2Proof.Machine

/-! ### A change of the screen, the keys and the random input -/

/-- The state with its framebuffer, its keys and its count of random bytes replaced by functions of them. -/
def State.mapInputs (f : Vector (Vector Bool 64) 32 → Vector (Vector Bool 64) 32)
    (g : Vector Bool 16 → Vector Bool 16) (h : Nat → Nat) (s : State) : State :=
  { s with fb := f s.fb, key := g s.key, randDraws := h s.randDraws }

theorem State.withKeys_eq (s : State) (keys : Vector Bool 16) :
    s.withKeys keys = s.mapInputs id (fun _ => keys) id := rfl

theorem State.withDraws_eq (s : State) (n : Nat) :
    s.withDraws n = s.mapInputs id id (fun _ => n) := rfl

theorem State.withScreen_eq (s : State) (fb : Vector (Vector Bool 64) 32) :
    s.withScreen fb = s.mapInputs (fun _ => fb) id id := rfl

/-- The instructions that read or write the framebuffer. -/
def usesScreen : Instr → Prop
  | .cls | .drw _ _ _ => True
  | _ => False

/-- The instructions that read the keys. -/
def usesKeys : Instr → Prop
  | .skp _ | .sknp _ | .ldVxK _ => True
  | _ => False

/-- The instruction that draws a random byte. -/
def usesRandom : Instr → Prop
  | .rnd _ _ => True
  | _ => False

section
variable {f : Vector (Vector Bool 64) 32 → Vector (Vector Bool 64) 32}
  {g : Vector Bool 16 → Vector Bool 16} {h : Nat → Nat}

theorem State.storeRegs_mapInputs (s : State) (n : Nat) :
    (s.mapInputs f g h).storeRegs n = (s.storeRegs n).mapInputs f g h :=
  List.foldl_hom (State.mapInputs f g h) fun _ _ => rfl

theorem State.loadRegs_mapInputs (s : State) (n : Nat) :
    (s.mapInputs f g h).loadRegs n = (s.loadRegs n).mapInputs f g h :=
  List.foldl_hom (State.mapInputs f g h) fun _ _ => rfl

theorem State.drawPixel_mapInputs (s : State) (vx vy b : Byte) (row col : Nat) :
    (s.mapInputs id g h).drawPixel vx vy b row col =
      (s.drawPixel vx vy b row col).mapInputs id g h := by
  unfold drawPixel xorCell
  split
  · rw [show (s.mapInputs id g h).cell = s.cell from rfl]
    split <;> rfl
  · rfl

theorem State.drawSprite_mapInputs (s : State) (vx vy : Byte) (n : Nat) :
    (s.mapInputs id g h).drawSprite vx vy n = (s.drawSprite vx vy n).mapInputs id g h :=
  List.foldl_hom (State.mapInputs id g h) fun _ row =>
    List.foldl_hom (State.mapInputs id g h) fun u col => u.drawPixel_mapInputs vx vy _ row col

theorem State.skipIf_mapInputs (s : State) (cond : Bool) :
    (s.mapInputs f g h).skipIf cond = (s.skipIf cond).mapInputs f g h := by
  cases cond <;> rfl

/-- An instruction answers the same whatever those of the three inputs are that it does not use: its tests are of
other parts, and its writes are too. -/
theorem exec_mapInputs (i : Instr) (s : State) (hf : usesScreen i → f = id)
    (hg : usesKeys i → g = id) (hh : usesRandom i → h = id) :
    exec i (s.mapInputs f g h) = mapNext (State.mapInputs f g h) (exec i s) := by
  cases i with
  | cls => obtain rfl := hf trivial; rfl
  | ret => simp only [exec, execRet, apply_dite (mapNext _)]; rfl
  | call => simp only [exec, execCall, apply_dite (mapNext _)]; rfl
  | seImm | sneImm | seReg | sneReg => exact congrArg _ (s.skipIf_mapInputs _)
  | rnd => obtain rfl := hh trivial; rfl
  | drw =>
    obtain rfl := hf trivial
    simp only [exec, execDrw, apply_ite (mapNext _)]
    exact if_congr Iff.rfl (congrArg _ ((s.setFlag 0#8).drawSprite_mapInputs _ _ _)) rfl
  | skp =>
    obtain rfl := hg trivial
    simp only [exec, execSkp, apply_dite (mapNext _)]
    exact dite_congr rfl (fun _ => congrArg _ (s.skipIf_mapInputs _)) fun _ => rfl
  | sknp =>
    obtain rfl := hg trivial
    simp only [exec, execSknp, apply_dite (mapNext _)]
    exact dite_congr rfl (fun _ => congrArg _ (s.skipIf_mapInputs _)) fun _ => rfl
  | ldVxK =>
    obtain rfl := hg trivial
    simp only [exec, execLdVxK]
    rw [show (s.mapInputs f id h).firstKey = s.firstKey from rfl]
    cases s.firstKey <;> rfl
  | ldBVx => simp only [exec, execLdBVx, apply_ite (mapNext _)]; rfl
  | ldMemVx =>
    simp only [exec, execLdMemVx, apply_ite (mapNext _)]
    exact if_congr Iff.rfl (congrArg _ (s.storeRegs_mapInputs _)) rfl
  | ldVxMem =>
    simp only [exec, execLdVxMem, apply_ite (mapNext _)]
    exact if_congr Iff.rfl (congrArg _ (s.loadRegs_mapInputs _)) rfl
  | _ => rfl

end

/-- Settles O54: the keys are used by three instructions and the random input by one. -/
theorem outsideInputsReadByFour : Obligations.OutsideInputsReadByFour := by
  refine ⟨fun i s keys hi => ?_, fun i s n hi => ?_⟩
  · have hkeys : ¬ usesKeys i := by
      cases i <;> simp_all [usesKeys]
    simp only [State.withKeys_eq]
    exact exec_mapInputs i s (fun _ => rfl) (fun hu => absurd hu hkeys) fun _ => rfl
  · have hrandom : ¬ usesRandom i := by
      cases i <;> simp_all [usesRandom]
    simp only [State.withDraws_eq]
    exact exec_mapInputs i s (fun _ => rfl) (fun _ => rfl) fun hu => absurd hu hrandom

/-- Settles O55: the framebuffer is used by two instructions, and one of them replaces it. -/
theorem screenReadByDrawOnly : Obligations.ScreenReadByDrawOnly := by
  refine fun i s fb => ⟨fun hcls hdrw => ?_, rfl⟩
  have hscreen : ¬ usesScreen i := by
    cases i <;> simp_all [usesScreen]
  simp only [State.withScreen_eq]
  exact exec_mapInputs i s (fun hu => absurd hu hscreen) (fun _ => rfl) fun _ => rfl

end Sys2Proof.Machine
end

section
/-! PROOFS. Calls undone by returns (41_flow.md, `CALL nnn`), the end of a run (40_cycle_driver.md rule R129), and the
values and effects of the ports (10_state.md rules R37, R38, R42). -/

namespace Sys2Proof.Machine

/-! ### Calls and returns -/

theorem execAll_cons {i : Instr} {s t : State} (h : exec i s = .next t) (is : List Instr) :
    execAll (i :: is) s = execAll is t := by
  rw [execAll, h]

theorem execAll_append {is : List Instr} {s t : State} (h : execAll is s = .next t)
    (js : List Instr) : execAll (is ++ js) s = execAll js t := by
  induction is generalizing s with
  | nil => cases h; rfl
  | cons i is ih =>
    obtain ⟨u, hexec⟩ := exec_has_next i s
    rw [execAll_cons hexec] at h
    rw [List.cons_append, execAll_cons hexec, ih h]

/-- A call, then whatever comes back to the state it left but for slots from its `sp` on, then a return. -/
theorem return_after_call {s u : State} {nnn : Addr12} (hroom : s.sp.val < 16)
    (hsp : u.sp.val = s.sp.val + 1)
    (hframe : OnlyChanges (fun p => ∃ k : Fin 16, s.sp.val + 1 ≤ k.val ∧ p = .slot k)
      ((s.push s.pc hroom).setPc (immAddr nnn)) u) :
    ∃ v, exec .ret u = .next v ∧ v.pc = s.pc ∧ v.sp = s.sp ∧
      OnlyChanges (fun p => ∃ k : Fin 16, s.sp.val ≤ k.val ∧ p = .slot k) s v := by
  have hpos : 0 < u.sp.val := by omega
  have hpc : (u.popPc hpos).pc = s.pc := by
    have hslot : u.slot ⟨s.sp.val, hroom⟩ = (s.push s.pc hroom).slot ⟨s.sp.val, hroom⟩ :=
      hframe (.slot ⟨s.sp.val, hroom⟩) (by simp)
    rw [State.popPc_pc]
    simp only [hsp, Nat.add_sub_cancel]
    rw [hslot, State.slot_push, if_pos rfl]
  have hsp' : (u.popPc hpos).sp = s.sp := by
    rw [State.popPc_sp]
    simp [hsp]
  refine ⟨_, exec_ret_of_pos hpos, hpc, hsp', fun p hp => ?_⟩
  by_cases hctl : p ∈ [.sp, .pc]
  · simp only [List.mem_cons, List.not_mem_nil, or_false] at hctl
    obtain rfl | rfl := hctl
    · exact hsp'
    · exact hpc
  · have hcall : p.Same s ((s.push s.pc hroom).setPc (immAddr nnn)) := by
      refine onlyChanges_push_setPc s _ _ hroom p ?_
      rintro (rfl | rfl | ⟨k, hk, rfl⟩)
      · simp at hctl
      · simp at hctl
      · exact hp ⟨k, hk.ge, rfl⟩
    have hback := hframe p fun ⟨k, hk, hslot⟩ => hp ⟨k, by omega, hslot⟩
    exact (hcall.trans hback).trans (onlyChanges_popPc u hpos p hctl)

/-- Settles O22: the last return undoes the first call, and the calls and returns between them come back to the
state that call left. -/
theorem callsThenReturnsRestore : Obligations.CallsThenReturnsRestore := by
  intro targets
  induction targets with
  | nil => exact fun s _ => ⟨s, s, rfl, rfl, rfl, rfl, fun p _ => by cases p <;> rfl⟩
  | cons nnn targets ih =>
    intro s hfit
    rw [List.length_cons] at hfit
    have hroom : s.sp.val < 16 := by omega
    obtain ⟨t, u, hcalls, hreturns, hpc, hsp, hframe⟩ :=
      ih ((s.push s.pc hroom).setPc (immAddr nnn)) (by simp; omega)
    obtain ⟨v, hret, hpc', hsp', hframe'⟩ := return_after_call hroom (congrArg Fin.val hsp) hframe
    refine ⟨t, v, ?_, ?_, hpc', hsp', hframe'⟩
    · rw [List.map_cons, execAll_cons (exec_call_of_room hroom), hcalls]
    · rw [List.length_cons, List.replicate_succ', execAll_append hreturns, execAll_cons hret]
      rfl

/-! ### The end of a run -/

theorem runOver_never (s : State) : runOver (fun _ => false) s = false := by
  simp [runOver]

/-- Settles O56: induction on the inputs, a tick at a time. -/
theorem runsEndByParameter : Obligations.RunsEndByParameter := by
  intro endOfRun inputs
  induction inputs with
  | nil => exact fun s => ⟨0, le_rfl, s, rfl, rfl, .inr rfl, nofun⟩
  | cons ws inputs ih =>
    intro s
    cases hover : runOver endOfRun s with
    | true => exact ⟨0, Nat.zero_le _, s, runUntil_over hover _, rfl, .inl hover, nofun⟩
    | false =>
      obtain ⟨t, hstep⟩ := everyStepHasNextState (writeKeys ws s)
      obtain ⟨n, hn, u, hrun, hticks, hend, hbefore⟩ := ih t
      refine ⟨n + 1, Nat.succ_le_succ hn, u, ?_, ?_, hend.imp_right (congrArg (· + 1)), ?_⟩
      · rw [runUntil_step hover hstep, hrun]
      · rw [List.take_succ_cons, runUntil_step (runOver_never s) hstep, hticks]
      · intro m hm v hv
        cases m with
        | zero => cases hv; exact hover
        | succ m =>
          rw [List.take_succ_cons, runUntil_step (runOver_never s) hstep] at hv
          exact hbefore m (Nat.lt_of_succ_lt_succ hm) v hv

/-! ### Reset and the input ports -/

theorem State.reset_readByte (a : Nat) : State.reset.readByte a = 0 := rfl

theorem State.reset_cell (r : Fin 32) (c : Fin 64) : State.reset.cell r c = false :=
  State.reset.cell_clearCells r c

/-- Settles O51: the table's values are those of the model's reset state. -/
theorem resetValues : Obligations.ResetValues :=
  ⟨by decide, State.reset_readByte, by decide, rfl, rfl, rfl, by decide, State.reset_cell, rfl, rfl, rfl,
    rfl, rfl⟩

/-- A key write changes nothing but that key's flag. -/
theorem keyDown_keyIn (k : Fin 16) (down : Bool) (s : State) (j : Fin 16) :
    (keyIn k down s).keyDown j = if j = k then down else s.keyDown j := by
  simp only [keyIn, State.keyDown, Vector.getElem_set, Fin.ext_iff, eq_comm]

theorem onlyChanges_keyIn (k : Fin 16) (down : Bool) (s : State) :
    OnlyChanges (· = .key k) s (keyIn k down s) := by
  intro p hp
  cases p with
  | key j =>
    have hj : j ≠ k := fun hj => hp (congrArg Part.key hj)
    exact (keyDown_keyIn k down s j).trans (if_neg hj)
  | _ => rfl

theorem onlyChanges_resetCore (s : State) : OnlyChanges (· = .draws) State.reset (resetCore s) := by
  intro p hp
  cases p with
  | draws => exact absurd rfl hp
  | _ => rfl

/-- Settles O53: each port by its definition. -/
theorem inputPorts : Obligations.InputPorts := by
  refine ⟨fun k down s => ⟨?_, onlyChanges_keyIn k down s⟩, fun a b s ha hs => ?_,
    fun a b s ha => loadByte_of_no_cell ha b s, fun _ _ _ => rfl,
    fun u => ⟨_, rfl, onlyChanges_resetCore u.core, rfl⟩, 
    fun _ _ hlong => if_neg (Nat.not_le.mpr hlong)⟩
  · rw [keyDown_keyIn, if_pos rfl]
  · refine ⟨_, loadByte_of_cell ha b s, ?_, onlyChanges_writeByte s a b⟩
    rw [s.readByte_writeByte hs, if_pos rfl]

end Sys2Proof.Machine
end
